-- ==== Sys2Proof/Word.lean ====
section
/-! DEFINITION. The two widths of data this hardware has: bytes and 32-bit words (00_scope.md R6, R13). -/

namespace Sys2Proof

/-- A word: an unsigned integer of `W = 32` bits, bit 0 the least significant (R6, R13). -/
abbrev Word := BitVec 32

/-- A byte: an unsigned integer of 8 bits (R13). -/
abbrev Byte := BitVec 8

end Sys2Proof
end

