-- ==== Sys2Proof/Config.lean ====
section
/-! DEFINITION. The parameters of the hardware (00_scope.md R6 to R12). All are constants; no value of the
spec is left free, so nothing here is opaque. -/

namespace Sys2Proof.Config

/-- Round count `R = 12` (R7, D2). -/
def R : Nat := 12

/-- Size of the subkey table for `r` rounds, `2*(r+1)` words (R7). -/
def tableSize (r : Nat) : Nat := 2 * (r + 1)

/-- `T`, the subkey table's size in this hardware: 26 words (R7). -/
def T : Nat := tableSize R

/-- `U`, bytes in a word (R6, R12). -/
def U : Nat := 4

/-- Bytes in a block (R9). -/
def BLOCK_BYTES : Nat := 2 * U

/-- The magic constant `P32` (R10). -/
def P32 : Word := 0xB7E15163#32

/-- The magic constant `Q32` (R10). -/
def Q32 : Word := 0x9E3779B9#32

/-- Shortest key in bytes (R8, R12). -/
def KEY_MIN : Nat := 1

/-- Longest key in bytes, and the longest payload an 8-bit LEN can spell (R8, R71, D3). -/
def KEY_MAX : Nat := 255

/-- Number of key words of a key of `n` bytes, `ceil(n/4)` (R8, R25). -/
def numWords (n : Nat) : Nat := (n + 3) / 4

/-- Storage of the key-word table in words (R8, R12). -/
def C_MAX : Nat := numWords KEY_MAX

/-- Mixing iterations for a table of `t` words and `c` key words, `3 * max(t, c)` (R11). -/
def mixCount (t c : Nat) : Nat := 3 * max t c

/-- `MIXN(c)` of this hardware (R11). -/
def MIXN (c : Nat) : Nat := mixCount T c

end Sys2Proof.Config
end

