-- ==== Sys2Proof/Machine/Primitives.lean ====
section
/-! DEFINITION. The datapath primitives of 43_primitives.md: pure functions on words, no flags, no exceptions. -/

namespace Sys2Proof.Machine

/-- `ADD32(x, y) = (x + y) mod 2^32`, the carry discarded (R130). -/
def add32 (x y : Word) : Word := x + y

/-- `SUB32(x, y) = (x - y) mod 2^32`, the borrow discarded (R131). -/
def sub32 (x y : Word) : Word := x - y

/-- `XOR32(x, y)`, bit by bit (R132). -/
def xor32 (x y : Word) : Word := x ^^^ y

/-- `ROTL(x, n)`: left rotation by `n mod 32`, the identity when that is 0 (R133, R135). -/
def rotl (x : Word) (n : Nat) : Word :=
  let s := n % 32
  if s = 0 then x else (x <<< s) + (x >>> (32 - s))

/-- `ROTR(x, n)`: right rotation by `n mod 32`, the identity when that is 0 (R134, R135). -/
def rotr (x : Word) (n : Nat) : Word :=
  let s := n % 32
  if s = 0 then x else (x >>> s) + (x <<< (32 - s))

/-- One accumulation of the packing loop, `(word << 8) + byte` (R92, R97). -/
def packByte (w : Word) (b : Byte) : Word := BitVec.ofNat 32 (w.toNat * 256 + b.toNat)

end Sys2Proof.Machine
end

