-- ==== Sys2Proof/Machine/Operands.lean ====
section
/-! DEFINITION. How bytes become words and words become bytes, and the operands of the commands
(20_memory.md R56 to R58, 30_encoding.md R73). -/

namespace Sys2Proof.Machine

/-- `LE32(b0, b1, b2, b3) = b0 + 2^8*b1 + 2^16*b2 + 2^24*b3` (R56). -/
def le32 (b0 b1 b2 b3 : Byte) : Word :=
  BitVec.ofNat 32 (b0.toNat + 2 ^ 8 * b1.toNat + 2 ^ 16 * b2.toNat + 2 ^ 24 * b3.toNat)

/-- `UNLE32(v) = (v[7:0], v[15:8], v[23:16], v[31:24])`, lowest index first (R56). -/
def unle32 (v : Word) : List Byte :=
  [v.extractLsb' 0 8, v.extractLsb' 8 8, v.extractLsb' 16 8, v.extractLsb' 24 8]

/-- Byte `k` of a byte string, 0 past its end. The block rules read it only inside an 8-byte block (R57), the
key rule pads the last key word with it (R58, R93). -/
def byteAt (bs : List Byte) (k : Nat) : Byte := bs.getD k 0

/-- The little-endian word whose first byte has index `k`. -/
def wordAt (bs : List Byte) (k : Nat) : Word :=
  le32 (byteAt bs k) (byteAt bs (k + 1)) (byteAt bs (k + 2)) (byteAt bs (k + 3))

/-- The first word of a block (R57). -/
def blockA (blk : List Byte) : Word := wordAt blk 0

/-- The second word of a block (R57). -/
def blockB (blk : List Byte) : Word := wordAt blk 4

/-- A block's bytes from its two words (R29, R57). -/
def blockBytes (a b : Word) : List Byte := unle32 a ++ unle32 b

end Sys2Proof.Machine
end

