-- ==== Sys2Proof/Syntax.lean ====
section
/-! DEFINITION. The commands of the engine: one constructor per row of spec/opcode_table.json. -/

namespace Sys2Proof

/-- A command with its payload `pay[0], pay[1], ..` (30_encoding.md R70, R72). `LEN` is the payload's
length (R71: a frame always carries exactly LEN payload bytes), so it is not stored a second time.
A frame with a reserved opcode is no command (R74): it has no constructor, and `decode` names it. -/
inductive Instr where
  /-- LOADKEY, opcode 0x01: the payload is the key (R72, R91). -/
  | loadkey (pay : List Byte)
  /-- ENCRYPT, opcode 0x02: the payload is the block (R72, R111). -/
  | encrypt (pay : List Byte)
  /-- DECRYPT, opcode 0x03: the payload is the block (R72, R121). -/
  | decrypt (pay : List Byte)
  deriving DecidableEq, Repr

/-- The payload of a command. -/
def Instr.pay : Instr → List Byte
  | .loadkey p => p
  | .encrypt p => p
  | .decrypt p => p

/-- `LEN`, the number of payload bytes (R71). -/
def Instr.len (i : Instr) : Nat := i.pay.length

end Sys2Proof
end

