-- ==== Sys2Proof/WellFormed.lean ====
section
/-! DEFINITION. Which commands a frame can spell. -/

namespace Sys2Proof

/-- A payload fits the 8-bit LEN field (30_encoding.md R71: lengths above 255 cannot be spelled). This is
the only check: every LEN from 0 to 255 is a well-formed frame of every opcode (R72: LEN is never part
of the match). -/
def payloadFits (pay : List Byte) : Bool := decide (pay.length ≤ Config.KEY_MAX)

/-- The command has a frame. -/
def Instr.wf : Instr → Bool
  | .loadkey p => payloadFits p
  | .encrypt p => payloadFits p
  | .decrypt p => payloadFits p

end Sys2Proof
end

