-- ==== Sys2Proof/Decode.lean ====
section
/-! DEFINITION. Command frames: the decoder, total on any bytes, and the encoder (30_encoding.md R70 to R78). -/

namespace Sys2Proof

/-- One row of spec/opcode_table.json over the 16-bit header `HDR = OPCODE || LEN` (R70, R72). -/
structure OpcodeRow where
  mnemonic : String
  pattern : BitVec 16
  mask : BitVec 16
  deriving DecidableEq, Repr

/-- spec/opcode_table.json, row by row (R72). -/
def opcodeTable : List OpcodeRow :=
  [⟨"LOADKEY", 0x0100#16, 0xFF00#16⟩, ⟨"ENCRYPT", 0x0200#16, 0xFF00#16⟩, ⟨"DECRYPT", 0x0300#16, 0xFF00#16⟩]

/-- A header matches a row of the table (R70). -/
def OpcodeRow.matches (r : OpcodeRow) (hdr : BitVec 16) : Bool := decide (hdr &&& r.mask = r.pattern)

/-- What stands at the front of a byte sequence, with the bytes after it (R77). -/
inductive Decoded where
  /-- One of the three commands. -/
  | command (i : Instr) (rest : List Byte)
  /-- A whole frame with a reserved opcode (R74). -/
  | reserved (op : Byte) (pay : List Byte) (rest : List Byte)
  /-- Fewer than `2 + LEN` bytes: no frame yet (R70, R189). -/
  | incomplete
  deriving DecidableEq, Repr

/-- The four cases of R77 for a whole frame with opcode `op` and payload `pay`. -/
def decodeFrame (op : Byte) (pay rest : List Byte) : Decoded :=
  if op = 0x01#8 then .command (.loadkey pay) rest
  else if op = 0x02#8 then .command (.encrypt pay) rest
  else if op = 0x03#8 then .command (.decrypt pay) rest
  else .reserved op pay rest

/-- The decoder. The frame's length is told by LEN alone, not by the opcode (R70, R77, R78). -/
def decode : List Byte → Decoded
  | op :: len :: more =>
    if len.toNat ≤ more.length then decodeFrame op (more.take len.toNat) (more.drop len.toNat)
    else .incomplete
  | _ => .incomplete

/-- The opcode byte of a command (R72). -/
def Instr.opcode : Instr → Byte
  | .loadkey _ => 0x01#8
  | .encrypt _ => 0x02#8
  | .decrypt _ => 0x03#8

/-- The bytes of a frame: opcode, LEN, payload in index order (R70). -/
def frameBytes (op : Byte) (pay : List Byte) : List Byte := op :: BitVec.ofNat 8 pay.length :: pay

/-- The encoder (R77: the obvious inverse on the three commands). -/
def encode (i : Instr) : List Byte := frameBytes i.opcode i.pay

/-- The frame whose header is the table's 16-bit word `HDR`: byte 0 is `HDR[15:8] = OPCODE`, byte 1 is
`HDR[7:0] = LEN` (R70). Payload byte `k` is read from bits `16 + 8k` and up; the table gives these no
bits, so with `nbits = 16` the payload is LEN zero bytes. DEDUCED (log entry 14). -/
def tableFrame (nbits w : Nat) : List Byte :=
  let v := w % 2 ^ nbits
  BitVec.ofNat 8 (v / 2 ^ 8) :: BitVec.ofNat 8 v ::
    (List.range (v % 2 ^ 8)).map fun k => BitVec.ofNat 8 (v / 2 ^ (16 + 8 * k))

/-- What the decoder reads from the instruction whose bits, numbered as the opcode table numbers them,
are `w`. -/
def decodeTableWord (nbits w : Nat) : Option Instr :=
  match decode (tableFrame nbits w) with
  | .command i _ => some i
  | .reserved _ _ _ => none
  | .incomplete => none

end Sys2Proof
end

