-- ==== Sys2Proof/Machine/State.lean ====
section
/-! DEFINITION. The state of one engine instance (10_state.md R20), the agents' pending turns, the reasons a
step can stop, and the state after reset (70_reset_and_hazards.md R181). -/

namespace Sys2Proof.Machine

/-- The sequencer's six phases (R30). Encodings 6 and 7 cannot be written down (93 U8). -/
inductive Phase where
  | IDLE | K_PACK | K_INIT | K_MIX | ENC | DEC
  deriving DecidableEq, Repr

/-- The five status codes (30_encoding.md R76). -/
inductive Status where
  | OK | INVALID_KEY | INVALID_LENGTH | NO_KEY | ILLEGAL_COMMAND
  deriving DecidableEq, Repr

/-- The four stored index spaces (20_memory.md R50); the fifth, the payload, is an argument of a command. -/
inductive Space where
  | S | L | KEYBUF | DOUT
  deriving DecidableEq, Repr

/-- A table: the elements written since reset, as (index, value) pairs with indices strictly rising. An
index that is not listed holds no value (R183, log entry 2). `Memory Byte` is a list of `Host.Cell`. -/
abbrev Memory (α : Type) := List (Nat × α)

/-- Whose turn it is, and with what (00_scope.md R16, 60_exceptions.md R173). -/
inductive Turn where
  /-- The engine sequencer moves (R37). -/
  | engine
  /-- The host sends these bytes to the command port (R36, R70). -/
  | issue (bytes : List Byte)
  /-- The host reads the response (R41). -/
  | readResp
  /-- The host reads the status bits (R42). -/
  | readStatus
  /-- The reset source asserts reset (R180). -/
  | reset
  deriving DecidableEq, Repr

/-- What a host step gave the host back (R173). -/
inductive Reply where
  /-- The response frame of ReadResp (R41, R75). -/
  | response (bytes : List Byte)
  /-- The three bits of ReadStatus (R42). -/
  | status (ready keyValid respValid : Bool)
  deriving DecidableEq, Repr

/-- Why a step stops: model faults (60_exceptions.md R159), which no run from reset meets, and steps that are
not enabled. Every one is safe: the model stops where a run of the hardware has nothing to correspond. -/
inductive Fault where
  /-- A table element that holds no value was read (R184). Raised by `readAt`. Safe: unreachable from reset. -/
  | noValue (space : Space) (index : Nat)
  /-- A table index outside the ranges of R141: outside the table, or for the key schedule's reads outside
  `0 .. C-1` of `L` and `0 .. KLEN-1` of `KEYBUF` (R52, R159). Raised by `readAt`, `writeAt` and `readLive`.
  Safe: unreachable from reset. -/
  | indexOutOfRange (space : Space) (index : Nat)
  /-- `K_PACK` or `K_MIX` with `CNT = 0`, against the precondition `1 ≤ CNT` of R97 and R99. Safe:
  unreachable from reset. -/
  | counterUnderflow
  /-- ReadResp with a RESP_LEN other than 0 and 8 (93 U8). Safe: unreachable from reset. -/
  | respLenUndefined
  /-- A command put to `exec` while `PHASE ≠ IDLE`: there is no such step (R36, 93 U9). `step` never does it,
  it holds the frame (R187). Safe. -/
  | issueWhileBusy
  /-- ReadResp by a host on an idle engine that has no response: the step is not enabled and never will be
  (R41, 93 U10). Safe. -/
  | respNotReady
  deriving DecidableEq, Repr

/-- Why there is no meaning. -/
inductive Refusal where
  /-- The instruction's arm is not modelled yet. No arm of this model says so. Safe. -/
  | notModelled (mnemonic : String)
  /-- A payload over 255 bytes, which no frame can spell (30_encoding.md R71, 93 U5): not a well-formed
  command, never given by the decoder. Raised by `issueCommand`. Safe. -/
  | payloadTooLong
  deriving DecidableEq, Repr

/-- The complete state of one engine instance (R20), under the spec's own names, and the model's two lists for
the agents around it (log entries 4 and 5). -/
structure State where
  /-- Working word (R21). -/
  A : Word
  /-- Working word (R21). -/
  B : Word
  /-- Subkey-table index (R22). -/
  SI : BitVec 5
  /-- Key-word index (R23). -/
  LJ : BitVec 6
  /-- Down counter (R23). -/
  CNT : BitVec 8
  /-- Key length in bytes (R24). -/
  KLEN : BitVec 8
  /-- Number of key words (R25). -/
  C : BitVec 7
  /-- Subkey table, 26 words (R26). -/
  S : Memory Word
  /-- Key-word table, 64 words (R27). -/
  L : Memory Word
  /-- Key byte buffer, 255 bytes (R28). -/
  KEYBUF : Memory Byte
  /-- Output block buffer, 8 bytes (R29). -/
  DOUT : Memory Byte
  /-- Sequencer state (R30). -/
  PHASE : Phase
  /-- `S` holds a complete subkey table (R32). -/
  KEY_VALID : Bool
  /-- A response is available (R35). -/
  RESP_VALID : Bool
  /-- Its status (R35, R76). -/
  RESP_STATUS : Status
  /-- Its number of data bytes (R35). -/
  RESP_LEN : BitVec 4
  /-- The turns still to be taken, next one first; when it is empty the engine has every turn. The model's
  own field (log entry 4). -/
  schedule : List Turn
  /-- What the host was given back so far, oldest first. The model's own field (log entry 5). -/
  replies : List Reply
  deriving DecidableEq, Repr

/-- The machine right after reset (R181). `PHASE`, `KEY_VALID`, `RESP_VALID` are the spec's; the tables list
nothing (each element holds no value, R183); the other registers are unspecified by the spec and stand at
zero here. DESIGN CHOICE (log entry 1), unsafe. -/
def State.reset : State where
  A := 0
  B := 0
  SI := 0
  LJ := 0
  CNT := 0
  KLEN := 0
  C := 0
  S := []
  L := []
  KEYBUF := []
  DOUT := []
  PHASE := .IDLE
  KEY_VALID := false
  RESP_VALID := false
  RESP_STATUS := .OK
  RESP_LEN := 0
  schedule := []
  replies := []

end Sys2Proof.Machine
end

