-- ==== Sys2Proof/Machine/Ops.lean ====
section
/-! DEFINITION. The named operations over tables and registers that every meaning is built from, with the one
way a command ends: `raise` for an error status, `respondOk` for success. -/

namespace Sys2Proof.Machine

/-- What an operation answers: a value, a fault or a refusal. -/
abbrev Result (α : Type) := Host.Outcome α Fault Refusal

/-- Go on with the value, or stop with the reason. -/
def andThen {α β : Type} (r : Result α) (k : α → Result β) : Result β :=
  match r with
  | .next x => k x
  | .fault f => .fault f
  | .refused f => .refused f

/-- Number of elements of a space (20_memory.md R50). -/
def Space.size : Space → Nat
  | .S => Config.T
  | .L => Config.C_MAX
  | .KEYBUF => Config.KEY_MAX
  | .DOUT => Config.BLOCK_BYTES

/-- The value last written to element `i`, if any since reset (R50, R183). -/
def Memory.read {α : Type} : Memory α → Nat → Option α
  | [], _ => none
  | (j, v) :: m, i => if i = j then some v else Memory.read m i

/-- Write element `i` only (R50), keeping the indices in rising order. -/
def Memory.write {α : Type} : Memory α → Nat → α → Memory α
  | [], i, v => [(i, v)]
  | (j, w) :: m, i, v =>
    if i < j then (i, v) :: (j, w) :: m
    else if i = j then (i, v) :: m
    else (j, w) :: Memory.write m i v

/-- Write consecutive elements from index `i` on. -/
def Memory.writeList {α : Type} (m : Memory α) (i : Nat) : List α → Memory α
  | [] => m
  | v :: vs => Memory.writeList (Memory.write m i v) (i + 1) vs

/-- Every index listed is at least `lo` and below `size`, and they rise strictly. -/
def Memory.wfFrom {α : Type} (size : Nat) : Nat → Memory α → Bool
  | _, [] => true
  | lo, (j, _) :: m => decide (lo ≤ j) && decide (j < size) && Memory.wfFrom size (j + 1) m

/-- The canonical form of a table of `size` elements. -/
def Memory.wf {α : Type} (size : Nat) (m : Memory α) : Bool := Memory.wfFrom size 0 m

/-- Read a table element: out of range faults (R141, R159), no value faults (R184). -/
def readAt {α : Type} (sp : Space) (m : Memory α) (i : Nat) : Result α :=
  if i < sp.size then
    match Memory.read m i with
    | some v => .next v
    | none => .fault (.noValue sp i)
  else .fault (.indexOutOfRange sp i)

/-- Read an element of a table of which only elements `0 .. live-1` are in use: `L` below `C`, `KEYBUF` below
`KLEN` (R27, R28, R52). An index past these is out of range (R141, R159), whatever the cell holds. -/
def readLive {α : Type} (sp : Space) (m : Memory α) (live i : Nat) : Result α :=
  if i < live then readAt sp m i else .fault (.indexOutOfRange sp i)

/-- Write a table element: out of range faults (R141, R159). -/
def writeAt {α : Type} (sp : Space) (m : Memory α) (i : Nat) (v : α) : Result (Memory α) :=
  if i < sp.size then .next (Memory.write m i v) else .fault (.indexOutOfRange sp i)

/-- Read `n` consecutive elements from index `i` on. -/
def readList {α : Type} (sp : Space) (m : Memory α) : Nat → Nat → Result (List α)
  | _, 0 => .next []
  | i, n + 1 =>
    andThen (readAt sp m i) fun v =>
    andThen (readList sp m (i + 1) n) fun vs => .next (v :: vs)

/-- `raise X` (60_exceptions.md R155), this hardware's whole exception entry: the response registers say
`X` with no data, and nothing else changes; in particular `PHASE` stays as it is, `IDLE`. There is no return
from it (R160). -/
def raise (x : Status) (s : State) : State :=
  { s with RESP_STATUS := x, RESP_LEN := 0, RESP_VALID := true }

/-- `respond OK(n)` (R154): the response registers, and the sequencer back to `IDLE`. -/
def respondOk (n : BitVec 4) (s : State) : State :=
  { s with RESP_STATUS := .OK, RESP_LEN := n, RESP_VALID := true, PHASE := .IDLE }

/-- The start of the Issue step (10_state.md R36): enabled only in `IDLE`; it clears `RESP_VALID` and then
judges the command with `judge`. A payload no frame can spell is refused (R71). -/
def issueCommand (pay : List Byte) (s : State) (judge : State → Result State) : Result State :=
  if payloadFits pay then
    if s.PHASE = .IDLE then judge { s with RESP_VALID := false } else .fault .issueWhileBusy
  else .refused .payloadTooLong

/-- The acceptance checks of a block command in their order (R157): `NO_KEY` (R153), then
`INVALID_LENGTH` (R152), then acceptance. -/
def checkBlock (pay : List Byte) (s : State) (accept : State → State) : Result State :=
  if s.KEY_VALID then
    if pay.length = Config.BLOCK_BYTES then .next (accept s) else .next (raise .INVALID_LENGTH s)
  else .next (raise .NO_KEY s)

/-- Completion of a block command with the final `A`, `B` (R115, R125, R154). -/
def completeBlock (s : State) : State :=
  respondOk 8 { s with DOUT := Memory.writeList s.DOUT 0 (blockBytes s.A s.B) }

/-- The Reset step (70_reset_and_hazards.md R180 to R182): every element of the engine as after reset; the
agents' lists are no part of the engine. The data elements' values are the model's (log entry 3). -/
def resetEngine (s : State) : State :=
  { State.reset with schedule := s.schedule, replies := s.replies }

end Sys2Proof.Machine
end

