-- ==== Sys2Proof/Machine/Flags.lean ====
section
/-! DEFINITION. The flag-like bits and the codes the host sees. The datapath has no carry, overflow or zero
flag (10_state.md R38); what there is are `KEY_VALID`, `RESP_VALID` and the derived `ready` (R42). -/

namespace Sys2Proof.Machine

/-- `ready = (PHASE = IDLE)` (R42). -/
def ready (s : State) : Bool := decide (s.PHASE = .IDLE)

/-- The encoding of `PHASE` (R30). Not observable; nothing depends on it. -/
def Phase.code : Phase → BitVec 3
  | .IDLE => 0
  | .K_PACK => 1
  | .K_INIT => 2
  | .K_MIX => 3
  | .ENC => 4
  | .DEC => 5

/-- The encoding of a status (30_encoding.md R76). -/
def Status.code : Status → BitVec 3
  | .OK => 0
  | .INVALID_KEY => 1
  | .INVALID_LENGTH => 2
  | .NO_KEY => 3
  | .ILLEGAL_COMMAND => 4

/-- What ReadStatus returns (R42). -/
def readStatus (s : State) : Reply := .status (ready s) s.KEY_VALID s.RESP_VALID

/-- The response frame: `STATUS`, `RLEN`, then `DOUT[0 .. RLEN-1]` (R41, R75). A RESP_LEN other than 0 and 8
faults (93 U8), and so does a byte of `DOUT` that holds no value (R184). -/
def responseFrame (s : State) : Result (List Byte) :=
  if s.RESP_LEN = 0 ∨ s.RESP_LEN = 8 then
    andThen (readList .DOUT s.DOUT 0 s.RESP_LEN.toNat) fun data =>
    .next (s.RESP_STATUS.code.setWidth 8 :: s.RESP_LEN.setWidth 8 :: data)
  else .fault .respLenUndefined

end Sys2Proof.Machine
end

