-- ==== Sys2Proof/Machine/Decrypt.lean ====
section
/-! DEFINITION. The DECRYPT command and its micro-steps (42_decrypt.md R121, R123 to R125). -/

namespace Sys2Proof.Machine

/-- Acceptance of DECRYPT (R123). -/
def acceptDecrypt (pay : List Byte) (s : State) : State :=
  { s with A := blockA pay, B := blockB pay, SI := BitVec.ofNat 5 (Config.T - 1), PHASE := .DEC }

/-- DECRYPT (R121, R36): the checks of R157, then acceptance. The block is then transformed by the
micro-steps. -/
def execDecrypt (pay : List Byte) (s : State) : Result State :=
  issueCommand pay s fun s => checkBlock pay s (acceptDecrypt pay)

/-- One inverse half-round with the subkey `S[k]`, `k ≥ 2`: odd `k` recovers `B`, even `k` recovers `A`
(R122, R124). -/
def decHalfRound (k : Nat) (sk : Word) (s : State) : State :=
  if k % 2 = 0 then { s with A := xor32 (rotr (sub32 s.A sk) s.B.toNat) s.B }
  else { s with B := xor32 (rotr (sub32 s.B sk) s.A.toNat) s.A }

/-- Removal of the pre-whitening with the subkey `S[k]`, `k < 2` (R125). -/
def decUnwhiten (k : Nat) (sk : Word) (s : State) : State :=
  if k = 0 then { s with A := sub32 s.A sk } else { s with B := sub32 s.B sk }

/-- Micro-step in `DEC` (R124, R125): one update with `S[SI]`, then the index below, or completion after
index 0. -/
def decStep (s : State) : Result State :=
  let k := s.SI.toNat
  andThen (readAt .S s.S k) fun sk =>
  let t := if k < 2 then decUnwhiten k sk s else decHalfRound k sk s
  .next (if k = 0 then completeBlock t else { t with SI := s.SI - 1 })

end Sys2Proof.Machine
end

