-- ==== Sys2Proof/Machine/Encrypt.lean ====
section
/-! DEFINITION. The ENCRYPT command and its micro-steps (41_encrypt.md R111, R113 to R115). -/

namespace Sys2Proof.Machine

/-- Acceptance of ENCRYPT (R113). -/
def acceptEncrypt (pay : List Byte) (s : State) : State :=
  { s with A := blockA pay, B := blockB pay, SI := 0, PHASE := .ENC }

/-- ENCRYPT (R111, R36): the checks of R157, then acceptance. The block is then transformed by the
micro-steps. -/
def execEncrypt (pay : List Byte) (s : State) : Result State :=
  issueCommand pay s fun s => checkBlock pay s (acceptEncrypt pay)

/-- Pre-whitening with the subkey `S[k]`, `k < 2` (R114). -/
def encWhiten (k : Nat) (sk : Word) (s : State) : State :=
  if k = 0 then { s with A := add32 s.A sk } else { s with B := add32 s.B sk }

/-- One half-round with the subkey `S[k]`, `k ≥ 2`: even `k` updates `A`, odd `k` updates `B` (R115). -/
def encHalfRound (k : Nat) (sk : Word) (s : State) : State :=
  if k % 2 = 0 then { s with A := add32 (rotl (xor32 s.A s.B) s.B.toNat) sk }
  else { s with B := add32 (rotl (xor32 s.B s.A) s.A.toNat) sk }

/-- Micro-step in `ENC` (R114, R115): one update with `S[SI]`, then the next index, or completion after the
last. -/
def encStep (s : State) : Result State :=
  let k := s.SI.toNat
  andThen (readAt .S s.S k) fun sk =>
  let t := if k < 2 then encWhiten k sk s else encHalfRound k sk s
  .next (if k = Config.T - 1 then completeBlock t else { t with SI := s.SI + 1 })

end Sys2Proof.Machine
end

