-- ==== Sys2Proof/Machine/KeySchedule.lean ====
section
/-! DEFINITION. The LOADKEY command and the key schedule engine's micro-steps (40_key_schedule.md R91,
R96 to R100). -/

namespace Sys2Proof.Machine

/-- Acceptance of LOADKEY (R96): the key into `KEYBUF`, the `C` live words of `L` cleared, `KEY_VALID` off. -/
def acceptLoadkey (pay : List Byte) (s : State) : State :=
  let c := Config.numWords pay.length
  { s with
    KLEN := BitVec.ofNat 8 pay.length
    C := BitVec.ofNat 7 c
    KEYBUF := Memory.writeList s.KEYBUF 0 pay
    L := Memory.writeList s.L 0 (List.replicate c 0)
    CNT := BitVec.ofNat 8 pay.length
    KEY_VALID := false
    PHASE := .K_PACK }

/-- LOADKEY (R91, R36): an empty key ends in `INVALID_KEY` (R151), any other is accepted. The table is
then built by the micro-steps. -/
def execLoadkey (pay : List Byte) (s : State) : Result State :=
  issueCommand pay s fun s =>
    if pay.length = 0 then .next (raise .INVALID_KEY s) else .next (acceptLoadkey pay s)

/-- Micro-step in `K_PACK`: one key byte, from the last to the first (R97). The byte's index must be below
`KLEN` and the word's below `C` (R141). -/
def kPack (s : State) : Result State :=
  if s.CNT = 0 then .fault .counterUnderflow
  else
    let idx := s.CNT.toNat - 1
    let q := idx / 4
    andThen (readLive .KEYBUF s.KEYBUF s.KLEN.toNat idx) fun byte =>
    andThen (readLive .L s.L s.C.toNat q) fun word =>
    andThen (writeAt .L s.L q (packByte word byte)) fun L =>
    let t := { s with L := L, CNT := s.CNT - 1 }
    .next (if s.CNT - 1 = 0 then { t with PHASE := .K_INIT, SI := 0 } else t)

/-- The word `K_INIT` writes at index `k`: `P32`, or the word before it plus `Q32` (R98). -/
def initValue (s : State) (k : Nat) : Result Word :=
  if k = 0 then .next Config.P32
  else andThen (readAt .S s.S (k - 1)) fun v => .next (add32 v Config.Q32)

/-- Micro-step in `K_INIT`: one subkey word (R98). -/
def kInit (s : State) : Result State :=
  let k := s.SI.toNat
  andThen (initValue s k) fun w =>
  andThen (writeAt .S s.S k w) fun S =>
  let t := { s with S := S }
  .next (if k = Config.T - 1 then
      { t with PHASE := .K_MIX, SI := 0, LJ := 0, A := 0, B := 0
               CNT := BitVec.ofNat 8 (Config.MIXN s.C.toNat) }
    else { t with SI := s.SI + 1 })

/-- Completion of LOADKEY (R100). -/
def completeKey (s : State) : State := respondOk 0 { s with KEY_VALID := true }

/-- Micro-step in `K_MIX`: one mixing iteration (R99), and completion with the last (R100). The index `LJ`
must be below `C` (R52, R141). -/
def kMix (s : State) : Result State :=
  if s.CNT = 0 then .fault .counterUnderflow
  else
    andThen (readAt .S s.S s.SI.toNat) fun sv =>
    andThen (readLive .L s.L s.C.toNat s.LJ.toNat) fun lv =>
    let a := rotl (add32 (add32 sv s.A) s.B) 3
    let b := rotl (add32 (add32 lv a) s.B) (add32 a s.B).toNat
    andThen (writeAt .S s.S s.SI.toNat a) fun S =>
    andThen (writeAt .L s.L s.LJ.toNat b) fun L =>
    let t := { s with
      S := S, L := L, A := a, B := b
      SI := BitVec.ofNat 5 ((s.SI.toNat + 1) % Config.T)
      LJ := BitVec.ofNat 6 ((s.LJ.toNat + 1) % s.C.toNat)
      CNT := s.CNT - 1 }
    .next (if s.CNT - 1 = 0 then completeKey t else t)

end Sys2Proof.Machine
end

