-- ==== Sys2Proof/Machine/Sequencer.lean ====
section
/-! DEFINITION. The engine step Micro (10_state.md R37). -/

namespace Sys2Proof.Machine

/-- One micro-step, chosen by `PHASE` (R37). In `IDLE` there is none and the engine waits (R170). -/
def micro (s : State) : Result State :=
  match s.PHASE with
  | .IDLE => .next s
  | .K_PACK => kPack s
  | .K_INIT => kInit s
  | .K_MIX => kMix s
  | .ENC => encStep s
  | .DEC => decStep s

/-- `n` micro-steps in a row, no other agent moving. -/
def microRun : Nat → State → Result State
  | 0, s => .next s
  | n + 1, s => andThen (micro s) (microRun n)

end Sys2Proof.Machine
end

