-- ==== Sys2Proof/Machine/Dispatch.lean ====
section
/-! DEFINITION. One arm per command: its meaning at acceptance (10_state.md R36). -/

namespace Sys2Proof.Machine

def exec (i : Instr) (s : State) : Host.Outcome State Fault Refusal :=
  match i with
  | .loadkey pay => Sys2Proof.Machine.execLoadkey pay s
  | .encrypt pay => Sys2Proof.Machine.execEncrypt pay s
  | .decrypt pay => Sys2Proof.Machine.execDecrypt pay s

end Sys2Proof.Machine
end

