-- ==== Sys2Proof/Machine/Turns.lean ====
section
/-! DEFINITION. What each turn of the schedule does: the host's steps, the reset source's, the engine's. -/

namespace Sys2Proof.Machine

/-- The bytes behind a frame are the start of the next one (30_encoding.md R70; log entry 11). -/
def sendRest (left : List Byte) (later : List Turn) : List Turn :=
  match left with
  | [] => later
  | b :: bs => .issue (b :: bs) :: later

/-- Issue in `IDLE` (10_state.md R36): the first whole frame of `bytes` is taken and judged; a reserved opcode
ends in `ILLEGAL_COMMAND` (R74, R156). Bytes that are no whole frame are a host that never issued (R189):
nothing happens to the engine (log entry 10). `later` is the rest of the schedule. -/
def issueBytes (bytes : List Byte) (later : List Turn) (s : State) : Result State :=
  match decode bytes with
  | .command i left => exec i { s with schedule := sendRest left later }
  | .reserved _ pay left =>
    issueCommand pay { s with schedule := sendRest left later } fun s => .next (raise .ILLEGAL_COMMAND s)
  | .incomplete => .next { s with schedule := later }

/-- ReadResp (R41): the host is given the response frame; the engine does not change. -/
def readRespTurn (later : List Turn) (s : State) : Result State :=
  andThen (responseFrame s) fun bytes =>
  .next { s with schedule := later, replies := s.replies ++ [.response bytes] }

/-- One step of the whole: the agent whose turn it is moves (00_scope.md R16). A host that wants to issue, or to
read a response that is still being computed, is held while the engine is busy: the engine moves and the turn
stays (R36, R187). With no turn left the engine goes on by itself. -/
def takeTurn (s : State) : Result State :=
  match s.schedule with
  | [] => micro s
  | .engine :: later => micro { s with schedule := later }
  | .issue bytes :: later => if s.PHASE = .IDLE then issueBytes bytes later s else micro s
  | .readResp :: later =>
    if s.RESP_VALID then readRespTurn later s
    else if s.PHASE = .IDLE then .fault .respNotReady
    else micro s
  | .readStatus :: later => .next { s with schedule := later, replies := s.replies ++ [readStatus s] }
  | .reset :: later => .next (resetEngine { s with schedule := later })

/-- The state in which the next step issues exactly this frame: the engine idle, the frame the host's next
turn (log entries 6 and 17). -/
def placeFrame (bytes : List Byte) (s : State) : State :=
  { s with PHASE := .IDLE, schedule := .issue bytes :: s.schedule }

end Sys2Proof.Machine
end

