-- ==== Sys2Proof/Machine/Operation.lean ====
section
/-! DEFINITION. The operation level (00_scope.md R15): the commands as mathematical functions of key and block
bytes, P3's own level, for any round count `r` (R7, D2; the hardware is `r = Config.R`). Written
independently of the micro-steps; that the two agree is a statement. -/

namespace Sys2Proof.Machine

/-- The packing loop of R92 over the indices `n-1` down to 0. -/
def packFrom (key : List Byte) : Nat → List Word → List Word
  | 0, L => L
  | n + 1, L => packFrom key n (L.set (n / 4) (packByte (L.getD (n / 4) 0) (byteAt key n)))

/-- `PACK(key)` (40_key_schedule.md R92). -/
def pack (key : List Byte) : List Word :=
  packFrom key key.length (List.replicate (Config.numWords key.length) 0)

/-- Word `i` of `INIT()` (R94). -/
def initWord : Nat → Word
  | 0 => Config.P32
  | i + 1 => add32 (initWord i) Config.Q32

/-- `INIT()` for a table of `t` words (R94). -/
def initTable (t : Nat) : List Word := (List.range t).map initWord

/-- The variables of the mixing pass (R95). -/
structure MixState where
  S : List Word
  L : List Word
  A : Word
  B : Word
  i : Nat
  j : Nat
  deriving DecidableEq, Repr

/-- One iteration of the mixing pass, for tables of `t` and `c` words (R95). -/
def mixStep (t c : Nat) (m : MixState) : MixState :=
  let a := rotl (add32 (add32 (m.S.getD m.i 0) m.A) m.B) 3
  let b := rotl (add32 (add32 (m.L.getD m.j 0) a) m.B) (add32 a m.B).toNat
  { S := m.S.set m.i a, L := m.L.set m.j b, A := a, B := b, i := (m.i + 1) % t, j := (m.j + 1) % c }

/-- `n` iterations of the mixing pass. -/
def mixRun (t c : Nat) : Nat → MixState → MixState
  | 0, m => m
  | n + 1, m => mixRun t c n (mixStep t c m)

/-- The mixing pass's start: accumulators and indices at 0 (R95). -/
def mixStart (S L : List Word) : MixState := { S := S, L := L, A := 0, B := 0, i := 0, j := 0 }

/-- `EXPAND(key)` for `r` rounds (R90). -/
def expand (r : Nat) (key : List Byte) : List Word :=
  let t := Config.tableSize r
  let c := Config.numWords key.length
  (mixRun t c (Config.mixCount t c) (mixStart (initTable t) (pack key))).S

/-- Subkey `S[k]`. -/
def subkey (S : List Word) (k : Nat) : Word := S.getD k 0

/-- Round `i` of encryption on `(A, B)`; `B`'s update uses the new `A` (41_encrypt.md R110, R112). -/
def encRound (S : List Word) (i : Nat) (ab : Word × Word) : Word × Word :=
  let a := add32 (rotl (xor32 ab.1 ab.2) ab.2.toNat) (subkey S (2 * i))
  let b := add32 (rotl (xor32 ab.2 a) a.toNat) (subkey S (2 * i + 1))
  (a, b)

/-- Rounds `1 .. n` in this order. -/
def encRounds (S : List Word) : Nat → Word × Word → Word × Word
  | 0, ab => ab
  | n + 1, ab => encRound S (n + 1) (encRounds S n ab)

/-- `ENC_BLOCK(S, blk)` for `r` rounds (R110). -/
def encBlock (r : Nat) (S : List Word) (blk : List Byte) : List Byte :=
  let ab := encRounds S r (add32 (blockA blk) (subkey S 0), add32 (blockB blk) (subkey S 1))
  blockBytes ab.1 ab.2

/-- Round `i` of decryption on `(A, B)`; `B` first, then `A` with the new `B` (42_decrypt.md R120, R122). -/
def decRound (S : List Word) (i : Nat) (ab : Word × Word) : Word × Word :=
  let b := xor32 (rotr (sub32 ab.2 (subkey S (2 * i + 1))) ab.1.toNat) ab.1
  let a := xor32 (rotr (sub32 ab.1 (subkey S (2 * i))) b.toNat) b
  (a, b)

/-- Rounds `n` down to 1. -/
def decRounds (S : List Word) : Nat → Word × Word → Word × Word
  | 0, ab => ab
  | n + 1, ab => decRounds S n (decRound S (n + 1) ab)

/-- `DEC_BLOCK(S, blk)` for `r` rounds (R120). -/
def decBlock (r : Nat) (S : List Word) (blk : List Byte) : List Byte :=
  let ab := decRounds S r (blockA blk, blockB blk)
  blockBytes (sub32 ab.1 (subkey S 0)) (sub32 ab.2 (subkey S 1))

/-- P3's engine as its caller sees it: its subkey table, or no engine yet (10_state.md R32, R33). -/
abbrev Engine := Option (List Word)

/-- What a command answers: its status and its data bytes (R75). -/
abbrev Answer := Status × List Byte

/-- A command on P3's engine: the engine after it and its answer (R91, R111, R121, R157). -/
def operate (i : Instr) (e : Engine) : Engine × Answer :=
  match i with
  | .loadkey pay =>
    if pay.length = 0 then (e, (.INVALID_KEY, [])) else (some (expand Config.R pay), (.OK, []))
  | .encrypt pay =>
    match e with
    | none => (e, (.NO_KEY, []))
    | some S =>
      if pay.length = Config.BLOCK_BYTES then (e, (.OK, encBlock Config.R S pay)) else (e, (.INVALID_LENGTH, []))
  | .decrypt pay =>
    match e with
    | none => (e, (.NO_KEY, []))
    | some S =>
      if pay.length = Config.BLOCK_BYTES then (e, (.OK, decBlock Config.R S pay)) else (e, (.INVALID_LENGTH, []))

end Sys2Proof.Machine
end

