-- ==== Sys2Proof/Safety.lean ====
section
/-! DEFINITION. What the statements speak of: the invariants of 10_state.md R43, what a run is, which state is
live (R34), how far a command has still to go (70_reset_and_hazards.md R191), and the operation-level reading of
a state. -/

namespace Sys2Proof.Machine

/-- The first `n` elements all hold a value. -/
abbrev Memory.full {α : Type} (n : Nat) (m : Memory α) : Prop :=
  ∀ i, i < n → (Memory.read m i).isSome = true

/-- Two tables agree on their first `n` elements. -/
def Memory.agree {α : Type} (n : Nat) (m m' : Memory α) : Prop :=
  ∀ i, i < n → Memory.read m i = Memory.read m' i

/-- The first `n` words of a table. -/
def tableWords (m : Memory Word) (n : Nat) : List Word :=
  (List.range n).map fun i => (Memory.read m i).getD 0

/-- The key of the LOADKEY in progress, as `KEYBUF` holds it (R28). -/
def keyBytes (s : State) : List Byte :=
  (List.range s.KLEN.toNat).map fun k => (Memory.read s.KEYBUF k).getD 0

/-- The key schedule engine is at work. -/
def Phase.expanding (p : Phase) : Prop := p = .K_PACK ∨ p = .K_INIT ∨ p = .K_MIX

/-- The block encryptor/decryptor is at work. -/
def Phase.onBlock (p : Phase) : Prop := p = .ENC ∨ p = .DEC

/-- The four tables are in canonical form. -/
structure Canonical (s : State) : Prop where
  S : Memory.wf Space.S.size s.S = true
  L : Memory.wf Space.L.size s.L = true
  KEYBUF : Memory.wf Space.KEYBUF.size s.KEYBUF = true
  DOUT : Memory.wf Space.DOUT.size s.DOUT = true

/-- The invariants of R43 (items 2 to 7, but for the contents of `S`) and of R184: which elements hold a
value when. -/
structure Inv (s : State) : Prop where
  canonical : Canonical s
  keyed : s.KEY_VALID = true → (s.PHASE = .IDLE ∨ s.PHASE.onBlock) ∧ Memory.full Config.T s.S
  expanding : s.PHASE.expanding →
    s.KEY_VALID = false ∧ 1 ≤ s.KLEN.toNat ∧ s.C.toNat = Config.numWords s.KLEN.toNat ∧
      Memory.full s.C.toNat s.L ∧ Memory.full s.KLEN.toNat s.KEYBUF
  packing : s.PHASE = .K_PACK → 1 ≤ s.CNT.toNat ∧ s.CNT.toNat ≤ s.KLEN.toNat
  filling : s.PHASE = .K_INIT → s.SI.toNat < Config.T ∧ Memory.full s.SI.toNat s.S
  mixing : s.PHASE = .K_MIX →
    1 ≤ s.CNT.toNat ∧ s.CNT.toNat ≤ Config.MIXN s.C.toNat ∧
      s.SI.toNat = (Config.MIXN s.C.toNat - s.CNT.toNat) % Config.T ∧
      s.LJ.toNat = (Config.MIXN s.C.toNat - s.CNT.toNat) % s.C.toNat ∧ Memory.full Config.T s.S
  onBlock : s.PHASE.onBlock → s.KEY_VALID = true ∧ s.SI.toNat < Config.T
  busy : s.PHASE ≠ .IDLE → s.RESP_VALID = false
  response : s.RESP_VALID = true →
    s.RESP_LEN = 0 ∨ s.RESP_LEN = 8 ∧ s.RESP_STATUS = .OK ∧ Memory.full Config.BLOCK_BYTES s.DOUT

/-- R43 item 2 and what leads to it: with a key loaded `S` is `EXPAND` of a key, and in each phase of a LOADKEY
the tables hold exactly what the loops of R92, R94 and R95 have computed by then from the key in `KEYBUF`. -/
structure OnTrack (s : State) : Prop where
  keyed : s.KEY_VALID = true → ∃ key : List Byte,
    Config.KEY_MIN ≤ key.length ∧ key.length ≤ Config.KEY_MAX ∧ tableWords s.S Config.T = expand Config.R key
  packing : s.PHASE = .K_PACK →
    packFrom (keyBytes s) s.CNT.toNat (tableWords s.L s.C.toNat) = pack (keyBytes s)
  filling : s.PHASE = .K_INIT →
    tableWords s.L s.C.toNat = pack (keyBytes s) ∧ tableWords s.S s.SI.toNat = initTable s.SI.toNat
  mixing : s.PHASE = .K_MIX →
    mixRun Config.T s.C.toNat (Config.MIXN s.C.toNat - s.CNT.toNat)
        (mixStart (initTable Config.T) (pack (keyBytes s))) =
      { S := tableWords s.S Config.T, L := tableWords s.L s.C.toNat, A := s.A, B := s.B
        i := s.SI.toNat, j := s.LJ.toNat }

/-- The two states agree on everything live (R20, R34), and on what the agents will do and were told; what is
dead may differ. -/
structure SameLive (s t : State) : Prop where
  PHASE : s.PHASE = t.PHASE
  KEY_VALID : s.KEY_VALID = t.KEY_VALID
  RESP_VALID : s.RESP_VALID = t.RESP_VALID
  schedule : s.schedule = t.schedule
  replies : s.replies = t.replies
  response : s.RESP_VALID = true → s.RESP_STATUS = t.RESP_STATUS ∧ s.RESP_LEN = t.RESP_LEN ∧
    (s.RESP_LEN = 8 → Memory.agree Config.BLOCK_BYTES s.DOUT t.DOUT)
  keyed : s.KEY_VALID = true → Memory.agree Config.T s.S t.S
  expanding : s.PHASE.expanding → s.C = t.C ∧ Memory.agree s.C.toNat s.L t.L
  packing : s.PHASE = .K_PACK → s.CNT = t.CNT ∧ Memory.agree s.CNT.toNat s.KEYBUF t.KEYBUF
  filling : s.PHASE = .K_INIT → s.SI = t.SI ∧ Memory.agree s.SI.toNat s.S t.S
  mixing : s.PHASE = .K_MIX → s.SI = t.SI ∧ s.LJ = t.LJ ∧ s.CNT = t.CNT ∧ s.A = t.A ∧ s.B = t.B ∧
    Memory.agree Config.T s.S t.S
  onBlock : s.PHASE.onBlock → s.SI = t.SI ∧ s.A = t.A ∧ s.B = t.B

/-- Micro-steps until the command in progress completes (R191). -/
def stepsLeft (s : State) : Nat :=
  match s.PHASE with
  | .IDLE => 0
  | .K_PACK => s.CNT.toNat + Config.T + Config.MIXN s.C.toNat
  | .K_INIT => (Config.T - s.SI.toNat) + Config.MIXN s.C.toNat
  | .K_MIX => s.CNT.toNat
  | .ENC => Config.T - s.SI.toNat
  | .DEC => s.SI.toNat + 1

/-- From `s`, `n` micro-steps and no fewer bring the engine back to `IDLE`, in the state `u`. -/
def CompletesIn (n : Nat) (s u : State) : Prop :=
  microRun n s = .next u ∧ u.PHASE = .IDLE ∧
    ∀ k, k < n → ∃ v, microRun k s = .next v ∧ v.PHASE ≠ .IDLE

/-- P3's engine in a state: the subkey table when there is one (R32). -/
def engineOf (s : State) : Engine :=
  if s.KEY_VALID then some (tableWords s.S Config.T) else none

/-- The response frame of an answer (R75). -/
def answerFrame (a : Answer) : List Byte :=
  a.1.code.setWidth 8 :: BitVec.ofNat 8 a.2.length :: a.2

/-- The state after an error status (R155), but for the turn it took. -/
def failed (x : Status) (later : List Turn) (s : State) : State :=
  { s with schedule := later, RESP_VALID := true, RESP_STATUS := x, RESP_LEN := 0 }

/-- The machine after reset with the agents' turns placed. -/
def start (turns : List Turn) : State := { State.reset with schedule := turns }

/-- A state some run from reset reaches, whatever the agents do (R43). -/
def Reachable (s : State) : Prop :=
  ∃ turns k, Host.Core.run Sys2Proof.core k (start turns) = .next s

/-- A safe run's states: the invariants hold and the tables are on the way to `EXPAND`. -/
structure Safe (s : State) : Prop where
  inv : Inv s
  track : OnTrack s

end Sys2Proof.Machine
end

