-- ==== Sys2Proof/Certificates/Slice0/Obligations.lean ====
section
/-! DEFINITION. The statements for the provers. Each docstring names the rules of spec/ it comes from; where a
clause is the model's own choice it says so and names the log entry. -/

open Sys2Proof Sys2Proof.Machine

/-! ## Encoding (30_encoding.md) -/

/-- R70, R72, R74, R81: frames written out from the spec's encoding decode to what they stand for. The four
clauses on table words rest on the model's layout of such a word (log entry 14): its upper byte is the first one
sent, and that a 16-bit word stands for `LEN` payload bytes of zero is the model's choice. -/
def Obligations.SpecFramesDecode : Prop :=
  decode [0x01#8, 0x02#8, 0xAA#8, 0xBB#8] = .command (.loadkey [0xAA#8, 0xBB#8]) [] ∧
  decode [0x01#8, 0x00#8] = .command (.loadkey []) [] ∧
  decode [0x02#8, 0x08#8, 0#8, 0#8, 0#8, 0#8, 0#8, 0#8, 0#8, 0#8] =
    .command (.encrypt [0#8, 0#8, 0#8, 0#8, 0#8, 0#8, 0#8, 0#8]) [] ∧
  decode [0x03#8, 0x08#8, 0x21#8, 0xA5#8, 0xDB#8, 0xEE#8, 0x15#8, 0x4B#8, 0x8F#8, 0x6D#8] =
    .command (.decrypt [0x21#8, 0xA5#8, 0xDB#8, 0xEE#8, 0x15#8, 0x4B#8, 0x8F#8, 0x6D#8]) [] ∧
  decode [0x02#8, 0x07#8, 0#8, 0#8, 0#8, 0#8, 0#8, 0#8, 0#8] =
    .command (.encrypt [0#8, 0#8, 0#8, 0#8, 0#8, 0#8, 0#8]) [] ∧
  decode [0x7F#8, 0x02#8, 0xAA#8, 0xBB#8] = .reserved 0x7F#8 [0xAA#8, 0xBB#8] [] ∧
  decode [0x00#8, 0x00#8] = .reserved 0x00#8 [] [] ∧
  decodeTableWord 16 0x0102 = some (.loadkey [0#8, 0#8]) ∧
  decodeTableWord 16 0x0201 = some (.encrypt [0#8]) ∧
  decodeTableWord 16 0x0300 = some (.decrypt []) ∧
  decodeTableWord 16 0x0400 = none

/-- R77: a whole frame, whatever follows it, falls into exactly the four cases by its opcode, and the decoder
undoes the encoder on every command. -/
def Obligations.FrameDecodesByOpcode : Prop :=
  (∀ (op len : Byte) (pay rest : List Byte), pay.length = len.toNat →
    decode (op :: len :: (pay ++ rest)) =
      if op = 0x01#8 then .command (.loadkey pay) rest
      else if op = 0x02#8 then .command (.encrypt pay) rest
      else if op = 0x03#8 then .command (.decrypt pay) rest
      else .reserved op pay rest) ∧
  (∀ (i : Instr) (rest : List Byte), i.wf = true → decode (encode i ++ rest) = .command i rest)

/-- R70, R71, R77, R78: the decoder reads a command from exactly the byte sequences that begin with a
well-formed command's encoding, finds a reserved frame exactly where one stands, and finds nothing exactly
when there are fewer than `2 + LEN` bytes. -/
def Obligations.DecoderAcceptsExactlyFrames : Prop :=
  ∀ bytes : List Byte,
    (∀ i rest, decode bytes = .command i rest ↔ i.wf = true ∧ bytes = encode i ++ rest) ∧
    (∀ op pay rest, decode bytes = .reserved op pay rest ↔
      op ≠ 0x01#8 ∧ op ≠ 0x02#8 ∧ op ≠ 0x03#8 ∧ pay.length ≤ 255 ∧ bytes = frameBytes op pay ++ rest) ∧
    (decode bytes = .incomplete ↔
      ∀ (op len : Byte) (more : List Byte), bytes = op :: len :: more → more.length < len.toNat)

/-! ## The agents' turns (10_state.md, 60_exceptions.md, 70_reset_and_hazards.md) -/

/-- R36: an engine in `IDLE` to which the host sends a command's frame runs that command. Around `exec` the
step adds only that the frame is taken from the schedule (the model's field, log entry 4). -/
def Obligations.StepRunsDecodedCommand : Prop :=
  ∀ (s : State) (i : Instr) (later : List Turn), i.wf = true → s.PHASE = .IDLE →
    s.schedule = .issue (encode i) :: later → step s = exec i { s with schedule := later }

/-- The table's word placed where the next step takes it (the model's convention, log entries 6, 14 and 17): that
step is `exec` of the command the decoder reads from it, on the idle engine. -/
def Obligations.PlacedWordRuns : Prop :=
  ∀ (s : State) (nbits w : Nat) (i : Instr), decodeTableWord nbits w = some i →
    i.wf = true ∧ step (s.withFetchWord nbits w) = exec i { s with PHASE := .IDLE }

/-- R74, R156: a frame with a reserved opcode is consumed whole, ends in `ILLEGAL_COMMAND` and changes nothing
but the response registers. -/
def Obligations.ReservedFrameAnswersIllegalCommand : Prop :=
  ∀ (s : State) (op : Byte) (pay : List Byte) (later : List Turn),
    op ≠ 0x01#8 → op ≠ 0x02#8 → op ≠ 0x03#8 → pay.length ≤ 255 → s.PHASE = .IDLE →
    s.schedule = .issue (frameBytes op pay) :: later →
    step s = .next { s with schedule := later, RESP_VALID := true, RESP_STATUS := .ILLEGAL_COMMAND, RESP_LEN := 0 }

/-- R155, R157: the checks run in the fixed order, the first that fails gives the status, and a failing command
changes the response registers only; a command no check fails leaves `IDLE`. For every frame. -/
def Obligations.AcceptanceChecksInOrder : Prop :=
  ∀ (s : State) (op : Byte) (pay : List Byte) (later : List Turn),
    pay.length ≤ 255 → s.PHASE = .IDLE → s.schedule = .issue (frameBytes op pay) :: later →
    let ends (x : Status) : Prop :=
      step s = .next { s with schedule := later, RESP_VALID := true, RESP_STATUS := x, RESP_LEN := 0 }
    if op ≠ 0x01#8 ∧ op ≠ 0x02#8 ∧ op ≠ 0x03#8 then ends .ILLEGAL_COMMAND
    else if op = 0x01#8 ∧ pay.length = 0 then ends .INVALID_KEY
    else if op ≠ 0x01#8 ∧ s.KEY_VALID = false then ends .NO_KEY
    else if op ≠ 0x01#8 ∧ pay.length ≠ 8 then ends .INVALID_LENGTH
    else ∃ t, step s = .next t ∧ t.PHASE ≠ .IDLE ∧ t.RESP_VALID = false ∧ t.schedule = later

/-- R36, R187, 93 U9: while the engine is busy a frame is held: the step is the engine's micro-step, and after it
the frame is still the host's next turn; and there is no such thing as running a command on a busy engine (the fault is the model's name for a
step that is not enabled, log entry 8). -/
def Obligations.BusyEngineHoldsFrame : Prop :=
  (∀ (s : State) (bytes : List Byte) (later : List Turn), s.PHASE ≠ .IDLE →
    s.schedule = .issue bytes :: later →
    step s = micro s ∧ ∀ t, step s = .next t → t.schedule = .issue bytes :: later) ∧
  (∀ (s : State) (i : Instr), s.PHASE ≠ .IDLE → i.wf = true → exec i s = .fault .issueWhileBusy)

/-- R189: a transmission that is no whole frame leaves the engine as it is: nothing at all, an opcode alone, or fewer
payload bytes than LEN says (that the bytes are then forgotten is the model's reading, log entry 10). -/
def Obligations.UnfinishedFrameNeverIssues : Prop :=
  (∀ (s : State) (bytes : List Byte) (later : List Turn), s.PHASE = .IDLE → decode bytes = .incomplete →
    s.schedule = .issue bytes :: later → step s = .next { s with schedule := later }) ∧
  decode [] = .incomplete ∧ (∀ op : Byte, decode [op] = .incomplete) ∧
  (∀ (op len : Byte) (more : List Byte), more.length < len.toNat → decode (op :: len :: more) = .incomplete)

/-- R16, R37, R170: on the engine's own turn the step is the engine's micro-step: with no turn of another agent to
come, and when the schedule names the engine, whose turn is then taken (the schedule and its `engine` turns are the
model's, log entries 4 and 19). So an idle engine to which nobody does anything stays as it is (log entry 7). -/
def Obligations.IdleEngineWaits : Prop :=
  (∀ s : State, s.schedule = [] → step s = micro s) ∧
  (∀ (s : State) (later : List Turn), s.schedule = .engine :: later → step s = micro { s with schedule := later }) ∧
  (∀ s : State, s.PHASE = .IDLE → s.schedule = [] → step s = .next s)

/-- R41, R75: ReadResp is enabled iff `RESP_VALID = 1`; it gives the host the response frame and changes nothing
in the engine. While the engine computes, the host waits; on an idle engine without a response the step is not
enabled (93 U10; the fault is the model's name for that, log entry 9). -/
def Obligations.ReadRespReturnsFrame : Prop :=
  ∀ (s : State) (later : List Turn), s.schedule = .readResp :: later →
    (s.RESP_VALID = true → s.RESP_LEN = 0 →
      step s = .next { s with schedule := later
                              replies := s.replies ++ [.response [s.RESP_STATUS.code.setWidth 8, 0#8]] }) ∧
    (∀ data : List Byte, data.length = 8 → s.RESP_VALID = true → s.RESP_LEN = 8 →
      (∀ k, k < 8 → Memory.read s.DOUT k = data[k]?) →
      step s = .next { s with
        schedule := later
        replies := s.replies ++ [.response (s.RESP_STATUS.code.setWidth 8 :: 8#8 :: data)] }) ∧
    (s.RESP_VALID = false → s.PHASE ≠ .IDLE → step s = micro s) ∧
    (s.RESP_VALID = false → s.PHASE = .IDLE → step s = .fault .respNotReady)

/-- R76: the status codes. -/
def Obligations.StatusCodes : Prop :=
  Status.OK.code.toNat = 0 ∧ Status.INVALID_KEY.code.toNat = 1 ∧ Status.INVALID_LENGTH.code.toNat = 2 ∧
  Status.NO_KEY.code.toNat = 3 ∧ Status.ILLEGAL_COMMAND.code.toNat = 4 ∧
  ∀ x : Status, x.code.toNat < 5

/-- R42: ReadStatus is always enabled, returns the three bits and changes no state of the engine. -/
def Obligations.ReadStatusReturnsBits : Prop :=
  ∀ (s : State) (later : List Turn), s.schedule = .readStatus :: later →
    step s = .next { s with
      schedule := later
      replies := s.replies ++ [.status (decide (s.PHASE = .IDLE)) s.KEY_VALID s.RESP_VALID] }

/-- R180, R182: the reset event in any state: the command is abandoned, no response, no key. -/
def Obligations.ResetAbandonsCommand : Prop :=
  ∀ (s : State) (later : List Turn), s.schedule = .reset :: later →
    ∃ t, step s = .next t ∧ t.PHASE = .IDLE ∧ t.KEY_VALID = false ∧ t.RESP_VALID = false ∧
      t.schedule = later ∧ t.replies = s.replies

/-- R181: the three control bits after reset, and `PHASE`. That no table element holds a value, so that reading
one faults, is R183 and R184 (log entry 2); the zeros of the other registers are the model's choice (log entry
1) and are not stated. -/
def Obligations.ResetStateControlBits : Prop :=
  State.reset.PHASE = .IDLE ∧ State.reset.KEY_VALID = false ∧ State.reset.RESP_VALID = false ∧
  (∀ i, i < 26 → readAt .S State.reset.S i = .fault (.noValue .S i)) ∧
  (∀ i, i < 64 → readAt .L State.reset.L i = .fault (.noValue .L i)) ∧
  (∀ i, i < 255 → readAt .KEYBUF State.reset.KEYBUF i = .fault (.noValue .KEYBUF i)) ∧
  (∀ i, i < 8 → readAt .DOUT State.reset.DOUT i = .fault (.noValue .DOUT i))

/-- R181, R185: after a reset, whatever the engine was doing and whatever key it held, every block command
answers `NO_KEY`. -/
def Obligations.BlockCommandAfterResetAnswersNoKey : Prop :=
  ∀ (s : State) (op : Byte) (pay : List Byte) (later : List Turn),
    op = 0x02#8 ∨ op = 0x03#8 → pay.length ≤ 255 →
    s.schedule = .reset :: .issue (frameBytes op pay) :: later →
    ∃ t, Host.Core.run Sys2Proof.core 2 s = .next t ∧ t.PHASE = .IDLE ∧ t.KEY_VALID = false ∧
      t.RESP_VALID = true ∧ t.RESP_STATUS = .NO_KEY ∧ t.RESP_LEN = 0

/-! ## Acceptance of the commands (40_key_schedule.md, 41_encrypt.md, 42_decrypt.md) -/

/-- R96: acceptance of LOADKEY, every effect and its frame. -/
def Obligations.LoadkeyAcceptance : Prop :=
  ∀ (s : State) (key : List Byte), s.PHASE = .IDLE → 1 ≤ key.length → key.length ≤ 255 →
    ∃ t, exec (.loadkey key) s = .next t ∧
      t.KLEN.toNat = key.length ∧ t.C.toNat = (key.length + 3) / 4 ∧
      (∀ k, k < key.length → Memory.read t.KEYBUF k = key[k]?) ∧
      (∀ q, q < t.C.toNat → Memory.read t.L q = some 0) ∧
      t.CNT.toNat = key.length ∧ t.KEY_VALID = false ∧ t.PHASE = .K_PACK ∧ t.RESP_VALID = false ∧
      (∀ k, key.length ≤ k → Memory.read t.KEYBUF k = Memory.read s.KEYBUF k) ∧
      (∀ q, t.C.toNat ≤ q → Memory.read t.L q = Memory.read s.L q) ∧
      t.S = s.S ∧ t.DOUT = s.DOUT ∧ t.A = s.A ∧ t.B = s.B ∧ t.SI = s.SI ∧ t.LJ = s.LJ ∧
      t.RESP_STATUS = s.RESP_STATUS ∧ t.RESP_LEN = s.RESP_LEN ∧ t.schedule = s.schedule ∧ t.replies = s.replies

/-- R151: LOADKEY with an empty key, and that nothing else makes LOADKEY fail. -/
def Obligations.OnlyEmptyKeyIsInvalid : Prop :=
  ∀ (s : State) (key : List Byte), s.PHASE = .IDLE → key.length ≤ 255 →
    (key = [] → exec (.loadkey key) s =
      .next { s with RESP_VALID := true, RESP_STATUS := .INVALID_KEY, RESP_LEN := 0 }) ∧
    (key ≠ [] → ∃ t, exec (.loadkey key) s = .next t ∧ t.PHASE = .K_PACK ∧ t.RESP_VALID = false)

/-- R113: acceptance of ENCRYPT; nothing else changes, every byte of every table reads as before. -/
def Obligations.EncryptAcceptance : Prop :=
  ∀ (s : State) (b0 b1 b2 b3 b4 b5 b6 b7 : Byte), s.PHASE = .IDLE → s.KEY_VALID = true →
    exec (.encrypt [b0, b1, b2, b3, b4, b5, b6, b7]) s =
      .next { s with A := le32 b0 b1 b2 b3, B := le32 b4 b5 b6 b7, SI := 0#5, PHASE := .ENC, RESP_VALID := false }

/-- R123: acceptance of DECRYPT; nothing else changes, every byte of every table reads as before. -/
def Obligations.DecryptAcceptance : Prop :=
  ∀ (s : State) (b0 b1 b2 b3 b4 b5 b6 b7 : Byte), s.PHASE = .IDLE → s.KEY_VALID = true →
    exec (.decrypt [b0, b1, b2, b3, b4, b5, b6, b7]) s =
      .next { s with A := le32 b0 b1 b2 b3, B := le32 b4 b5 b6 b7, SI := 25#5, PHASE := .DEC, RESP_VALID := false }

/-- R153: a block command while `KEY_VALID = 0` answers `NO_KEY`, whatever its length, and changes nothing but
the response registers. -/
def Obligations.BlockCommandWithoutKeyAnswersNoKey : Prop :=
  ∀ (s : State) (pay : List Byte), s.PHASE = .IDLE → s.KEY_VALID = false → pay.length ≤ 255 →
    exec (.encrypt pay) s = .next { s with RESP_VALID := true, RESP_STATUS := .NO_KEY, RESP_LEN := 0 } ∧
    exec (.decrypt pay) s = .next { s with RESP_VALID := true, RESP_STATUS := .NO_KEY, RESP_LEN := 0 }

/-- R152: with a key, a block command whose length is not 8 answers `INVALID_LENGTH` and changes nothing but the
response registers. -/
def Obligations.WrongLengthAnswersInvalidLength : Prop :=
  ∀ (s : State) (pay : List Byte), s.PHASE = .IDLE → s.KEY_VALID = true → pay.length ≤ 255 → pay.length ≠ 8 →
    exec (.encrypt pay) s = .next { s with RESP_VALID := true, RESP_STATUS := .INVALID_LENGTH, RESP_LEN := 0 } ∧
    exec (.decrypt pay) s = .next { s with RESP_VALID := true, RESP_STATUS := .INVALID_LENGTH, RESP_LEN := 0 }

/-! ## The micro-steps -/

/-- R97, R25: one step of `K_PACK`, its effects and its frame, under the rule's precondition `1 ≤ CNT ≤ KLEN` with
`C = ceil(KLEN/4)`. -/
def Obligations.PackStepShiftsByteIn : Prop :=
  ∀ (s : State) (byte : Byte) (word : Word), s.PHASE = .K_PACK → 1 ≤ s.CNT.toNat →
    s.CNT.toNat ≤ s.KLEN.toNat → s.C.toNat = (s.KLEN.toNat + 3) / 4 →
    Memory.read s.KEYBUF (s.CNT.toNat - 1) = some byte →
    Memory.read s.L ((s.CNT.toNat - 1) / 4) = some word →
    ∃ t, micro s = .next t ∧
      Memory.read t.L ((s.CNT.toNat - 1) / 4) =
        some (BitVec.ofNat 32 ((word.toNat * 256 + byte.toNat) % 2 ^ 32)) ∧
      (∀ q, q ≠ (s.CNT.toNat - 1) / 4 → Memory.read t.L q = Memory.read s.L q) ∧
      t.CNT.toNat = s.CNT.toNat - 1 ∧
      (s.CNT.toNat - 1 = 0 → t.PHASE = .K_INIT ∧ t.SI = 0) ∧
      (s.CNT.toNat - 1 ≠ 0 → t.PHASE = .K_PACK ∧ t.SI = s.SI) ∧
      t.A = s.A ∧ t.B = s.B ∧ t.LJ = s.LJ ∧ t.KLEN = s.KLEN ∧ t.C = s.C ∧ t.S = s.S ∧ t.KEYBUF = s.KEYBUF ∧
      t.DOUT = s.DOUT ∧ t.KEY_VALID = s.KEY_VALID ∧ t.RESP_VALID = s.RESP_VALID ∧
      t.RESP_STATUS = s.RESP_STATUS ∧ t.RESP_LEN = s.RESP_LEN ∧ t.schedule = s.schedule ∧ t.replies = s.replies

/-- R98: one step of `K_INIT`, its effects and its frame. -/
def Obligations.InitStepFillsSubkey : Prop :=
  ∀ (s : State) (before : Word), s.PHASE = .K_INIT → s.SI.toNat ≤ 25 → s.C.toNat ≤ 64 →
    (s.SI.toNat ≠ 0 → Memory.read s.S (s.SI.toNat - 1) = some before) →
    ∃ t, micro s = .next t ∧
      Memory.read t.S s.SI.toNat = some (if s.SI.toNat = 0 then Config.P32 else add32 before Config.Q32) ∧
      (∀ i, i ≠ s.SI.toNat → Memory.read t.S i = Memory.read s.S i) ∧
      (s.SI.toNat = 25 → t.PHASE = .K_MIX ∧ t.SI = 0 ∧ t.LJ = 0 ∧ t.A = 0 ∧ t.B = 0 ∧
        t.CNT.toNat = 3 * max 26 s.C.toNat) ∧
      (s.SI.toNat ≠ 25 → t.PHASE = .K_INIT ∧ t.SI.toNat = s.SI.toNat + 1 ∧ t.LJ = s.LJ ∧ t.A = s.A ∧ t.B = s.B ∧
        t.CNT = s.CNT) ∧
      t.KLEN = s.KLEN ∧ t.C = s.C ∧ t.L = s.L ∧ t.KEYBUF = s.KEYBUF ∧ t.DOUT = s.DOUT ∧
      t.KEY_VALID = s.KEY_VALID ∧ t.RESP_VALID = s.RESP_VALID ∧ t.RESP_STATUS = s.RESP_STATUS ∧
      t.RESP_LEN = s.RESP_LEN ∧ t.schedule = s.schedule ∧ t.replies = s.replies

/-- R99, R100: one step of `K_MIX`, its effects and its frame, and the completion of LOADKEY with the last. -/
def Obligations.MixStepUpdatesBothTables : Prop :=
  ∀ (s : State) (sv lv : Word), s.PHASE = .K_MIX → 1 ≤ s.CNT.toNat → s.SI.toNat ≤ 25 →
    s.C.toNat ≤ 64 → s.LJ.toNat < s.C.toNat →
    Memory.read s.S s.SI.toNat = some sv → Memory.read s.L s.LJ.toNat = some lv →
    let a := rotl (add32 (add32 sv s.A) s.B) 3
    let b := rotl (add32 (add32 lv a) s.B) (add32 a s.B).toNat
    ∃ t, micro s = .next t ∧
      Memory.read t.S s.SI.toNat = some a ∧ Memory.read t.L s.LJ.toNat = some b ∧ t.A = a ∧ t.B = b ∧
      (∀ i, i ≠ s.SI.toNat → Memory.read t.S i = Memory.read s.S i) ∧
      (∀ j, j ≠ s.LJ.toNat → Memory.read t.L j = Memory.read s.L j) ∧
      t.SI.toNat = (s.SI.toNat + 1) % 26 ∧ t.LJ.toNat = (s.LJ.toNat + 1) % s.C.toNat ∧
      t.CNT.toNat = s.CNT.toNat - 1 ∧
      (s.CNT.toNat - 1 = 0 → t.PHASE = .IDLE ∧ t.KEY_VALID = true ∧ t.RESP_VALID = true ∧
        t.RESP_STATUS = .OK ∧ t.RESP_LEN = 0) ∧
      (s.CNT.toNat - 1 ≠ 0 → t.PHASE = .K_MIX ∧ t.KEY_VALID = s.KEY_VALID ∧ t.RESP_VALID = s.RESP_VALID ∧
        t.RESP_STATUS = s.RESP_STATUS ∧ t.RESP_LEN = s.RESP_LEN) ∧
      t.KLEN = s.KLEN ∧ t.C = s.C ∧ t.KEYBUF = s.KEYBUF ∧ t.DOUT = s.DOUT ∧
      t.schedule = s.schedule ∧ t.replies = s.replies

/-- R114: the two whitening steps of `ENC`; nothing but the named registers changes. (The rule's completion for
`R = 0` does not arise: `T = 26`.) -/
def Obligations.EncryptWhitensWithFirstSubkeys : Prop :=
  ∀ (s : State) (sk : Word), s.PHASE = .ENC →
    (s.SI = 0 → Memory.read s.S 0 = some sk →
      micro s = .next { s with A := add32 s.A sk, SI := 1#5 }) ∧
    (s.SI = 1 → Memory.read s.S 1 = some sk →
      micro s = .next { s with B := add32 s.B sk, SI := 2#5 })

/-- R115: one half-round of `ENC` at index `k ≥ 2`, and completion with `k = T-1 = 25`. -/
def Obligations.EncryptHalfRound : Prop :=
  ∀ (s : State) (sk : Word), s.PHASE = .ENC → 2 ≤ s.SI.toNat → s.SI.toNat ≤ 25 →
    Memory.read s.S s.SI.toNat = some sk →
    (s.SI.toNat % 2 = 0 →
      micro s = .next { s with A := add32 (rotl (xor32 s.A s.B) s.B.toNat) sk, SI := s.SI + 1 }) ∧
    (s.SI.toNat % 2 = 1 → s.SI.toNat ≠ 25 →
      micro s = .next { s with B := add32 (rotl (xor32 s.B s.A) s.A.toNat) sk, SI := s.SI + 1 }) ∧
    (s.SI.toNat = 25 → ∃ t, micro s = .next t ∧
      t.A = s.A ∧ t.B = add32 (rotl (xor32 s.B s.A) s.A.toNat) sk ∧
      (∀ k, k < 8 → Memory.read t.DOUT k = (unle32 t.A ++ unle32 t.B)[k]?) ∧
      (∀ k, 8 ≤ k → Memory.read t.DOUT k = Memory.read s.DOUT k) ∧
      t.RESP_STATUS = .OK ∧ t.RESP_LEN = 8 ∧ t.RESP_VALID = true ∧ t.PHASE = .IDLE ∧
      t.SI = s.SI ∧ t.LJ = s.LJ ∧ t.CNT = s.CNT ∧ t.KLEN = s.KLEN ∧ t.C = s.C ∧ t.S = s.S ∧ t.L = s.L ∧
      t.KEYBUF = s.KEYBUF ∧ t.KEY_VALID = s.KEY_VALID ∧ t.schedule = s.schedule ∧ t.replies = s.replies)

/-- R124: one inverse half-round of `DEC` at index `k ≥ 2`; nothing but the named registers changes. -/
def Obligations.DecryptHalfRound : Prop :=
  ∀ (s : State) (sk : Word), s.PHASE = .DEC → 2 ≤ s.SI.toNat → s.SI.toNat ≤ 25 →
    Memory.read s.S s.SI.toNat = some sk →
    (s.SI.toNat % 2 = 1 →
      micro s = .next { s with B := xor32 (rotr (sub32 s.B sk) s.A.toNat) s.A, SI := s.SI - 1 }) ∧
    (s.SI.toNat % 2 = 0 →
      micro s = .next { s with A := xor32 (rotr (sub32 s.A sk) s.B.toNat) s.B, SI := s.SI - 1 })

/-- R125: the two un-whitening steps of `DEC`, and completion with index 0. -/
def Obligations.DecryptUnwhitensAndCompletes : Prop :=
  ∀ (s : State) (sk : Word), s.PHASE = .DEC →
    (s.SI = 1 → Memory.read s.S 1 = some sk →
      micro s = .next { s with B := sub32 s.B sk, SI := 0#5 }) ∧
    (s.SI = 0 → Memory.read s.S 0 = some sk → ∃ t, micro s = .next t ∧
      t.A = sub32 s.A sk ∧ t.B = s.B ∧
      (∀ k, k < 8 → Memory.read t.DOUT k = (unle32 t.A ++ unle32 t.B)[k]?) ∧
      (∀ k, 8 ≤ k → Memory.read t.DOUT k = Memory.read s.DOUT k) ∧
      t.RESP_STATUS = .OK ∧ t.RESP_LEN = 8 ∧ t.RESP_VALID = true ∧ t.PHASE = .IDLE ∧
      t.SI = s.SI ∧ t.LJ = s.LJ ∧ t.CNT = s.CNT ∧ t.KLEN = s.KLEN ∧ t.C = s.C ∧ t.S = s.S ∧ t.L = s.L ∧
      t.KEYBUF = s.KEYBUF ∧ t.KEY_VALID = s.KEY_VALID ∧ t.schedule = s.schedule ∧ t.replies = s.replies)

/-- R141, R159: a table index outside the ranges of R141, or a counter that is down to 0, is a model fault in every
phase that could meet it, whatever the storage cell holds (the faults' names are the model's, log entry 13). No
run from reset meets one (`RunsFromResetNeverFault`). -/
def Obligations.OutOfRangeIndexFaults : Prop :=
  ∀ s : State,
    (s.PHASE = .K_PACK ∨ s.PHASE = .K_MIX → s.CNT.toNat = 0 → micro s = .fault .counterUnderflow) ∧
    (s.PHASE = .K_PACK → 1 ≤ s.CNT.toNat → s.KLEN.toNat ≤ s.CNT.toNat - 1 →
      micro s = .fault (.indexOutOfRange .KEYBUF (s.CNT.toNat - 1))) ∧
    (s.PHASE = .K_PACK → 1 ≤ s.CNT.toNat → s.CNT.toNat - 1 < s.KLEN.toNat →
      (Memory.read s.KEYBUF (s.CNT.toNat - 1)).isSome = true → s.C.toNat ≤ (s.CNT.toNat - 1) / 4 →
      micro s = .fault (.indexOutOfRange .L ((s.CNT.toNat - 1) / 4))) ∧
    (s.PHASE = .K_INIT → 26 < s.SI.toNat → micro s = .fault (.indexOutOfRange .S (s.SI.toNat - 1))) ∧
    (s.PHASE = .K_INIT → s.SI.toNat = 26 → (Memory.read s.S 25).isSome = true →
      micro s = .fault (.indexOutOfRange .S 26)) ∧
    (s.PHASE = .K_MIX → 1 ≤ s.CNT.toNat → 26 ≤ s.SI.toNat → micro s = .fault (.indexOutOfRange .S s.SI.toNat)) ∧
    (s.PHASE = .K_MIX → 1 ≤ s.CNT.toNat → s.SI.toNat < 26 → (Memory.read s.S s.SI.toNat).isSome = true →
      s.C.toNat ≤ s.LJ.toNat → micro s = .fault (.indexOutOfRange .L s.LJ.toNat)) ∧
    (s.PHASE = .ENC ∨ s.PHASE = .DEC → 26 ≤ s.SI.toNat → micro s = .fault (.indexOutOfRange .S s.SI.toNat))

/-! ## The two levels agree (00_scope.md R15) -/

/-- R103: from any idle state, a LOADKEY with a key of `n ≥ 1` bytes is accepted and after exactly
`n + T + MIXN(C)` micro-steps (`n` in `K_PACK`, `T` in `K_INIT`, `MIXN(C)` in `K_MIX`) the engine is idle again, with
`KEY_VALID = 1`, `S = EXPAND(key)` and response `(OK, 0)`. -/
def Obligations.LoadkeyBuildsExpandedTable : Prop :=
  ∀ (s : State) (key : List Byte), s.PHASE = .IDLE → 1 ≤ key.length → key.length ≤ 255 →
    ∃ t u, exec (.loadkey key) s = .next t ∧
      CompletesIn (key.length + 26 + 3 * max 26 ((key.length + 3) / 4)) t u ∧
      (∀ k v, k < key.length + 26 + 3 * max 26 ((key.length + 3) / 4) → microRun k t = .next v →
        v.PHASE = if k < key.length then .K_PACK else if k < key.length + 26 then .K_INIT else .K_MIX) ∧
      u.KEY_VALID = true ∧ (expand 12 key).length = 26 ∧
      (∀ i, i < 26 → Memory.read u.S i = (expand 12 key)[i]?) ∧
      u.RESP_VALID = true ∧ responseFrame u = .next [0#8, 0#8] ∧
      u.DOUT = s.DOUT ∧ u.schedule = s.schedule ∧ u.replies = s.replies

/-- R111, R117: from any idle state whose table holds the words `S`, an ENCRYPT of 8 bytes is accepted and after
exactly `T` micro-steps the engine is idle again with `DOUT = ENC_BLOCK(S, blk)` and response `(OK, 8, DOUT)`;
`S`, `KEY_VALID`, `L`, `KEYBUF`, `C`, `KLEN` are unchanged. -/
def Obligations.EncryptComputesEncBlock : Prop :=
  ∀ (s : State) (S : List Word) (blk : List Byte), s.PHASE = .IDLE → s.KEY_VALID = true →
    S.length = 26 → (∀ i, i < 26 → Memory.read s.S i = S[i]?) → blk.length = 8 →
    ∃ t u, exec (.encrypt blk) s = .next t ∧ CompletesIn 26 t u ∧
      (∀ k, k < 8 → Memory.read u.DOUT k = (encBlock 12 S blk)[k]?) ∧
      u.RESP_VALID = true ∧ responseFrame u = .next (0#8 :: 8#8 :: encBlock 12 S blk) ∧
      u.S = s.S ∧ u.KEY_VALID = s.KEY_VALID ∧ u.L = s.L ∧ u.KEYBUF = s.KEYBUF ∧ u.C = s.C ∧ u.KLEN = s.KLEN ∧
      u.LJ = s.LJ ∧ u.CNT = s.CNT ∧ u.schedule = s.schedule ∧ u.replies = s.replies

/-- R121, R127: the same of DECRYPT with `DEC_BLOCK`. -/
def Obligations.DecryptComputesDecBlock : Prop :=
  ∀ (s : State) (S : List Word) (blk : List Byte), s.PHASE = .IDLE → s.KEY_VALID = true →
    S.length = 26 → (∀ i, i < 26 → Memory.read s.S i = S[i]?) → blk.length = 8 →
    ∃ t u, exec (.decrypt blk) s = .next t ∧ CompletesIn 26 t u ∧
      (∀ k, k < 8 → Memory.read u.DOUT k = (decBlock 12 S blk)[k]?) ∧
      u.RESP_VALID = true ∧ responseFrame u = .next (0#8 :: 8#8 :: decBlock 12 S blk) ∧
      u.S = s.S ∧ u.KEY_VALID = s.KEY_VALID ∧ u.L = s.L ∧ u.KEYBUF = s.KEYBUF ∧ u.C = s.C ∧ u.KLEN = s.KLEN ∧
      u.LJ = s.LJ ∧ u.CNT = s.CNT ∧ u.schedule = s.schedule ∧ u.replies = s.replies

/-- R15, R33, R91, R111, R121: every command, accepted or not, run to its completion from an idle state does to
P3's engine, and answers the host, exactly what the operation level says. -/
def Obligations.MachineRefinesOperations : Prop :=
  ∀ (s : State) (i : Instr), Inv s → s.PHASE = .IDLE → i.wf = true →
    ∃ t n u, exec i s = .next t ∧ CompletesIn n t u ∧
      engineOf u = (operate i (engineOf s)).1 ∧
      u.RESP_VALID = true ∧ responseFrame u = .next (answerFrame (operate i (engineOf s)).2)

/-- R126, P3's round trip: for every table of 26 words, decryption undoes encryption and encryption undoes
decryption, on every 8-byte block. -/
def Obligations.DecryptionInvertsEncryption : Prop :=
  ∀ (S : List Word) (blk : List Byte), S.length = 26 → blk.length = 8 →
    decBlock 12 S (encBlock 12 S blk) = blk ∧ encBlock 12 S (decBlock 12 S blk) = blk

/-- P3's round trip on the machine (R117, R126, R127): the response to an ENCRYPT, sent back with DECRYPT, answers
the block that was encrypted. -/
def Obligations.EncryptThenDecryptGivesBlockBack : Prop :=
  ∀ (s : State) (blk : List Byte), Inv s → s.PHASE = .IDLE → s.KEY_VALID = true → blk.length = 8 →
    ∃ t u data t' u', exec (.encrypt blk) s = .next t ∧ CompletesIn 26 t u ∧
      responseFrame u = .next (0#8 :: 8#8 :: data) ∧
      exec (.decrypt data) u = .next t' ∧ CompletesIn 26 t' u' ∧
      responseFrame u' = .next (0#8 :: 8#8 :: blk)

/-! ## The functions (20_memory.md, 40_key_schedule.md, 43_primitives.md) -/

/-- R93: the closed form of PACK: word `q` is the sum of its at most four key bytes, zero-padded on the high
end. -/
def Obligations.PackIsLittleEndian : Prop :=
  ∀ key : List Byte, (pack key).length = (key.length + 3) / 4 ∧
    ∀ q, q < (key.length + 3) / 4 → ∃ w, (pack key)[q]? = some w ∧
      w.toNat = (key.getD (4 * q) 0).toNat + (key.getD (4 * q + 1) 0).toNat * 2 ^ 8 +
        (key.getD (4 * q + 2) 0).toNat * 2 ^ 16 + (key.getD (4 * q + 3) 0).toNat * 2 ^ 24 ∧
      w = le32 (key.getD (4 * q) 0) (key.getD (4 * q + 1) 0) (key.getD (4 * q + 2) 0) (key.getD (4 * q + 3) 0)

/-- R94: INIT's recursion and its closed form. -/
def Obligations.InitTableIsArithmetic : Prop :=
  (initTable 26).length = 26 ∧ (initTable 26)[0]? = some 0xB7E15163#32 ∧
  (∀ i, 1 ≤ i → i < 26 → ∃ v, (initTable 26)[i - 1]? = some v ∧
    (initTable 26)[i]? = some (add32 v 0x9E3779B9#32)) ∧
  (∀ t i, i < t → ∃ w, (initTable t)[i]? = some w ∧ w.toNat = (0xB7E15163 + i * 0x9E3779B9) % 2 ^ 32)

/-- R11: the mixing iteration count. -/
def Obligations.MixingCount : Prop :=
  ∀ c, Config.MIXN c = 3 * max 26 c ∧ (1 ≤ c → c ≤ 26 → Config.MIXN c = 78) ∧
    (27 ≤ c → c ≤ 64 → Config.MIXN c = 3 * c ∧ Config.MIXN c ≤ 192)

/-- R130, R131, R132: adder, subtractor and XOR, their laws and corner cases. -/
def Obligations.AdderSubtractorXor : Prop :=
  ∀ x y z : Word,
    (add32 x y).toNat = (x.toNat + y.toNat) % 2 ^ 32 ∧ add32 x y = add32 y x ∧
    add32 (add32 x y) z = add32 x (add32 y z) ∧
    (add32 (add32 x y) z).toNat = (x.toNat + y.toNat + z.toNat) % 2 ^ 32 ∧
    (sub32 x y).toNat = (if y.toNat ≤ x.toNat then x.toNat - y.toNat else x.toNat + 2 ^ 32 - y.toNat) ∧
    sub32 (add32 x y) y = x ∧ add32 (sub32 x y) y = x ∧
    (∀ n, (xor32 x y).getLsbD n = (x.getLsbD n != y.getLsbD n)) ∧
    xor32 (xor32 x y) y = x ∧ xor32 x y = xor32 y x ∧
    add32 x 0 = x ∧ add32 0xFFFFFFFF 1 = 0 ∧ add32 0x80000000 0x80000000 = 0 ∧
    sub32 x 0 = x ∧ sub32 0 1 = 0xFFFFFFFF ∧ sub32 x x = 0 ∧ xor32 x x = 0 ∧ xor32 x 0 = x

/-- R133: ROTL as a number and bit by bit; it sees only the amount modulo 32. -/
def Obligations.RotateLeftMovesBits : Prop :=
  ∀ (x : Word) (n : Nat),
    (rotl x n).toNat = (if n % 32 = 0 then x.toNat
      else (x.toNat * 2 ^ (n % 32)) % 2 ^ 32 + x.toNat / 2 ^ (32 - n % 32)) ∧
    (∀ m, m < 32 → (rotl x n).getLsbD ((m + n % 32) % 32) = x.getLsbD m) ∧
    rotl x n = rotl x (n % 32)

/-- R134: ROTR as a number and bit by bit, and as a left rotation. -/
def Obligations.RotateRightMovesBits : Prop :=
  ∀ (x : Word) (n : Nat),
    (rotr x n).toNat = (if n % 32 = 0 then x.toNat
      else x.toNat / 2 ^ (n % 32) + (x.toNat * 2 ^ (32 - n % 32)) % 2 ^ 32) ∧
    (∀ m, m < 32 → (rotr x n).getLsbD m = x.getLsbD ((m + n % 32) % 32)) ∧
    rotr x n = rotl x ((32 - n % 32) % 32)

/-- R136: the five rotator laws. -/
def Obligations.RotatorLaws : Prop :=
  (∀ (x : Word) (n : Nat), rotr (rotl x n) n = x ∧ rotl (rotr x n) n = x) ∧
  (∀ (x : Word) (n m : Nat), rotl (rotl x n) m = rotl x (n + m)) ∧
  (∀ (x : Word) (n : Nat), rotl x n = rotl x (n + 32)) ∧
  (∀ (x y : Word) (n : Nat), rotl (xor32 x y) n = xor32 (rotl x n) (rotl y n)) ∧
  (∃ (x y : Word) (n : Nat), rotl (add32 x y) n ≠ add32 (rotl x n) (rotl y n))

/-- R135: an amount that reduces to 0 modulo 32 leaves the word unchanged, both ways. -/
def Obligations.RotationByZeroIsIdentity : Prop :=
  ∀ (x : Word) (k : Nat), rotl x (32 * k) = x ∧ rotr x (32 * k) = x

/-- R102: the amount of the second mixing update may be reduced modulo `2^32`, modulo 32, or not at all; when it
is 0 modulo 32 the rotation is the identity. -/
def Obligations.MixRotationSeesLowFiveBits : Prop :=
  ∀ x a b : Word,
    rotl x (add32 a b).toNat = rotl x (a.toNat + b.toNat) ∧
    rotl x (add32 a b).toNat = rotl x ((a.toNat + b.toNat) % 32) ∧
    (a.toNat + b.toNat) % 32 = ((a.toNat + b.toNat) % 2 ^ 32) % 32 ∧
    (a.toNat + b.toNat) % 32 = (a.toNat % 32 + b.toNat % 32) % 32 ∧
    ((a.toNat + b.toNat) % 32 = 0 → rotl x (add32 a b).toNat = x)

/-- R56: LE32 and UNLE32 as the rule writes them, each the other's inverse. -/
def Obligations.LittleEndianBothWays : Prop :=
  (∀ b0 b1 b2 b3 : Byte,
    (le32 b0 b1 b2 b3).toNat = b0.toNat + 2 ^ 8 * b1.toNat + 2 ^ 16 * b2.toNat + 2 ^ 24 * b3.toNat ∧
    unle32 (le32 b0 b1 b2 b3) = [b0, b1, b2, b3]) ∧
  (∀ v : Word, ∃ b0 b1 b2 b3 : Byte, unle32 v = [b0, b1, b2, b3] ∧ le32 b0 b1 b2 b3 = v ∧
    b0.toNat = v.toNat % 2 ^ 8 ∧ b1.toNat = v.toNat / 2 ^ 8 % 2 ^ 8 ∧
    b2.toNat = v.toNat / 2 ^ 16 % 2 ^ 8 ∧ b3.toNat = v.toNat / 2 ^ 24 % 2 ^ 8)

/-! ## Invariants and whole-machine rules (10_state.md) -/

/-- R43, R181: the invariants hold right after reset, whatever turns are to come. -/
def Obligations.ResetIsSafe : Prop :=
  ∀ turns : List Turn, Safe (start turns)

/-- R43 items 1 and 3 to 7, R184: every step, of any agent, keeps the invariants. -/
def Obligations.StepKeepsInvariants : Prop :=
  ∀ s t : State, Inv s → step s = .next t → Inv t

/-- R43 item 2: every step keeps `S` on the way to, and at, `EXPAND` of the key. -/
def Obligations.StepKeepsTableOnTrack : Prop :=
  ∀ s t : State, Safe s → step s = .next t → OnTrack t

/-- The tables keep their canonical form in every step from every state in which they have it. The form, index and
value pairs with indices strictly rising, is the model's representation of the tables and no rule of the spec (log
entry 2). -/
def Obligations.StepKeepsTablesCanonical : Prop :=
  ∀ s t : State, Canonical s → step s = .next t → Canonical t

/-- R37, R141, R184: where the invariants hold, every micro-step is defined: no index is out of range and no
element is read that holds no value. -/
def Obligations.MicroStepNeverFaults : Prop :=
  ∀ s : State, Inv s → ∃ t, micro s = .next t

/-- R43, R159, R184: no run from reset, whatever the agents do, meets a model fault or a refusal; the one thing
that can stop it is a host that asks an idle engine for a response it does not have (93 U10). -/
def Obligations.RunsFromResetNeverFault : Prop :=
  ∀ s : State, Reachable s → Safe s ∧ ((∃ t, step s = .next t) ∨
    (step s = .fault .respNotReady ∧ s.PHASE = .IDLE ∧ s.RESP_VALID = false ∧ s.schedule.head? = some .readResp))

/-- R191, R192: a command in progress completes, with `OK`, after exactly the number of micro-steps R191 gives,
at most 473; the engine never hangs. -/
def Obligations.EveryCommandTerminates : Prop :=
  ∀ s : State, Inv s → stepsLeft s ≤ 473 ∧ ∃ u, CompletesIn (stepsLeft s) s u ∧
    (s.PHASE ≠ .IDLE → u.RESP_VALID = true ∧ u.RESP_STATUS = .OK)

/-- R31: the sequencer's transfers: each phase's own, those of acceptance, and reset; there is no other. A frame
that is not accepted (an error status, R155) leaves `IDLE` as it is. -/
def Obligations.SequencerTransfers : Prop :=
  (∀ s t : State, micro s = .next t → t.PHASE = match s.PHASE with
    | .IDLE => .IDLE
    | .K_PACK => if s.CNT.toNat = 1 then .K_INIT else .K_PACK
    | .K_INIT => if s.SI.toNat = 25 then .K_MIX else .K_INIT
    | .K_MIX => if s.CNT.toNat = 1 then .IDLE else .K_MIX
    | .ENC => if s.SI.toNat = 25 then .IDLE else .ENC
    | .DEC => if s.SI.toNat = 0 then .IDLE else .DEC) ∧
  (∀ (i : Instr) (s t : State), exec i s = .next t → s.PHASE = .IDLE ∧ t.PHASE = match i with
    | .loadkey pay => if 1 ≤ pay.length then .K_PACK else .IDLE
    | .encrypt pay => if s.KEY_VALID = true ∧ pay.length = 8 then .ENC else .IDLE
    | .decrypt pay => if s.KEY_VALID = true ∧ pay.length = 8 then .DEC else .IDLE) ∧
  (∀ s t : State, step s = .next t → t.PHASE ≠ s.PHASE →
    (∃ turns, micro { s with schedule := turns } = .next t) ∨
    (∃ i turns, exec i { s with schedule := turns } = .next t) ∨
    (s.schedule.head? = some .reset ∧ t.PHASE = .IDLE)) ∧
  (∀ s : State, s.schedule.head? = some .reset → ∃ t, step s = .next t ∧ t.PHASE = .IDLE)

/-- R26, R51: but for reset, `S` is written only by the phases `K_INIT` and `K_MIX`, one element a step: the one
`SI` names. From every state. -/
def Obligations.SubkeysWrittenOnlyByKeySchedule : Prop :=
  ∀ s t : State, step s = .next t → s.schedule.head? ≠ some .reset →
    (s.PHASE ≠ .K_INIT → s.PHASE ≠ .K_MIX → t.S = s.S) ∧
    (∀ i, i ≠ s.SI.toNat → Memory.read t.S i = Memory.read s.S i)

/-- R26, R104: while a key is loaded the subkey table never changes: not by a block command, not by a LOADKEY that
fails, not by the acceptance of the next one; only reset forgets it. -/
def Obligations.TableImmutableWhileKeyValid : Prop :=
  ∀ s t : State, Inv s → s.KEY_VALID = true → step s = .next t → s.schedule.head? ≠ some .reset → t.S = s.S

/-- R32: `KEY_VALID` comes on only with the last `K_MIX` step and goes off only by an accepted LOADKEY or by
reset. From every state. -/
def Obligations.KeyValidTransitions : Prop :=
  ∀ s t : State, step s = .next t →
    (s.KEY_VALID = false → t.KEY_VALID = true → s.PHASE = .K_MIX ∧ s.CNT.toNat = 1 ∧ t.PHASE = .IDLE) ∧
    (s.KEY_VALID = true → t.KEY_VALID = false →
      s.schedule.head? = some .reset ∨
      (s.PHASE = .IDLE ∧ t.PHASE = .K_PACK ∧ ∃ bytes key rest, s.schedule.head? = some (.issue bytes) ∧
        decode bytes = .command (.loadkey key) rest ∧ key ≠ []))

/-- R150, R154: an error is never raised in the middle of a computation: a micro-step leaves the response
registers alone until it completes the command, and then the status is `OK`. From every state. -/
def Obligations.BusyEngineNeverRaises : Prop :=
  ∀ s t : State, s.PHASE ≠ .IDLE → micro s = .next t →
    (t.PHASE = .IDLE → t.RESP_VALID = true ∧ t.RESP_STATUS = .OK ∧
      t.RESP_LEN = if s.PHASE = .K_MIX then 0#4 else 8#4) ∧
    (t.PHASE ≠ .IDLE → t.RESP_VALID = s.RESP_VALID ∧ t.RESP_STATUS = s.RESP_STATUS ∧ t.RESP_LEN = s.RESP_LEN ∧
      t.DOUT = s.DOUT)

/-- R41, R160, R188: a response stays as it is, readable any number of times, until the host issues again or
reset. -/
def Obligations.ResponseKeptUntilNextCommand : Prop :=
  ∀ s t : State, Inv s → s.RESP_VALID = true → step s = .next t →
    (∀ bytes, s.schedule.head? ≠ some (.issue bytes)) → s.schedule.head? ≠ some .reset →
    t.RESP_VALID = true ∧ t.RESP_STATUS = s.RESP_STATUS ∧ t.RESP_LEN = s.RESP_LEN ∧ t.DOUT = s.DOUT ∧
      t.S = s.S ∧ t.KEY_VALID = s.KEY_VALID ∧ t.PHASE = .IDLE

/-- R33, R34, R183: dead state is unobservable: two states that agree on what is live stay so in every step and
give the host the same replies, whatever their dead registers and table elements hold. So nothing the host sees
depends on a value the model chose for reset (log entries 1 and 3). -/
def Obligations.DeadStateUnobservable : Prop :=
  ∀ s t : State, Inv s → Inv t → SameLive s t →
    (∃ s' t', step s = .next s' ∧ step t = .next t' ∧ SameLive s' t') ∨
    (step s = .fault .respNotReady ∧ step t = .fault .respNotReady)
end

