-- ==== Sys2Proof/Laws/Memory.lean ====
section
/-! SUPPORT. The laws of a table (20_memory.md R50): read after write, all other elements left alone, and the
canonical form kept by every write. -/

namespace Sys2Proof.Machine

variable {α : Type}

@[simp] theorem Memory.read_nil (i : Nat) : Memory.read ([] : Memory α) i = none := rfl

/-- A written element reads as the value written. -/
@[simp] theorem Memory.read_write_same (m : Memory α) (i : Nat) (v : α) :
    Memory.read (Memory.write m i v) i = some v := by
  induction m with
  | nil => simp [Memory.write, Memory.read]
  | cons p m ih =>
    obtain ⟨j, w⟩ := p
    unfold Memory.write
    split
    · simp [Memory.read]
    · split
      · simp [Memory.read]
      · simp [Memory.read, *]

/-- Every other element reads as before. -/
theorem Memory.read_write_other (m : Memory α) {i k : Nat} (v : α) (h : k ≠ i) :
    Memory.read (Memory.write m i v) k = Memory.read m k := by
  induction m with
  | nil => simp [Memory.write, Memory.read, h]
  | cons p m ih =>
    obtain ⟨j, w⟩ := p
    unfold Memory.write
    split
    · simp [Memory.read, h]
    · split
      · rename_i hij
        subst hij
        simp [Memory.read, h]
      · simp only [Memory.read, ih]

theorem Memory.read_write (m : Memory α) (i k : Nat) (v : α) :
    Memory.read (Memory.write m i v) k = if k = i then some v else Memory.read m k := by
  split
  · rename_i h
    rw [h, Memory.read_write_same]
  · rename_i h
    exact Memory.read_write_other m v h

/-- Reading after writing consecutive elements. -/
theorem Memory.read_writeList (vs : List α) (m : Memory α) (i k : Nat) :
    Memory.read (Memory.writeList m i vs) k =
      if i ≤ k ∧ k < i + vs.length then vs[k - i]? else Memory.read m k := by
  induction vs generalizing m i with
  | nil => simp only [Memory.writeList, List.length_nil]; split <;> first | omega | rfl
  | cons v vs ih =>
    simp only [Memory.writeList, ih, Memory.read_write, List.length_cons]
    by_cases hk : k = i
    · subst hk
      simp
    · by_cases hin : i ≤ k ∧ k < i + (vs.length + 1)
      · have h1 : i + 1 ≤ k ∧ k < i + 1 + vs.length := by omega
        have h2 : k - i = (k - (i + 1)) + 1 := by omega
        rw [if_pos h1, if_pos hin, h2, List.getElem?_cons_succ]
      · have h1 : ¬ (i + 1 ≤ k ∧ k < i + 1 + vs.length) := by omega
        rw [if_neg h1, if_neg hk, if_neg hin]

theorem Memory.wfFrom_mono {size lo lo' : Nat} {m : Memory α} (h : Memory.wfFrom size lo m = true)
    (hl : lo' ≤ lo) : Memory.wfFrom size lo' m = true := by
  cases m with
  | nil => rfl
  | cons p m =>
    obtain ⟨j, w⟩ := p
    simp only [Memory.wfFrom, Bool.and_eq_true, decide_eq_true_eq] at h ⊢
    exact ⟨⟨Nat.le_trans hl h.1.1, h.1.2⟩, h.2⟩

theorem Memory.wfFrom_write {size lo i : Nat} {m : Memory α} (v : α)
    (h : Memory.wfFrom size lo m = true) (hl : lo ≤ i) (hi : i < size) :
    Memory.wfFrom size lo (Memory.write m i v) = true := by
  induction m generalizing lo with
  | nil => simp [Memory.write, Memory.wfFrom, hl, hi]
  | cons p m ih =>
    obtain ⟨j, w⟩ := p
    simp only [Memory.wfFrom, Bool.and_eq_true, decide_eq_true_eq] at h
    obtain ⟨⟨h1, h2⟩, h3⟩ := h
    unfold Memory.write
    split
    · simp only [Memory.wfFrom, Bool.and_eq_true, decide_eq_true_eq]
      exact ⟨⟨hl, hi⟩, ⟨by omega, h2⟩, h3⟩
    · split
      · subst j
        simp only [Memory.wfFrom, Bool.and_eq_true, decide_eq_true_eq]
        exact ⟨⟨h1, h2⟩, h3⟩
      · simp only [Memory.wfFrom, Bool.and_eq_true, decide_eq_true_eq]
        exact ⟨⟨h1, h2⟩, ih h3 (by omega)⟩

/-- A write in range keeps the canonical form. -/
theorem Memory.wf_write {size i : Nat} {m : Memory α} (v : α) (h : Memory.wf size m = true)
    (hi : i < size) : Memory.wf size (Memory.write m i v) = true :=
  Memory.wfFrom_write v h (Nat.zero_le i) hi

/-- Writing consecutive elements in range keeps the canonical form. -/
theorem Memory.wf_writeList {size : Nat} (vs : List α) {i : Nat} {m : Memory α}
    (h : Memory.wf size m = true) (hi : i + vs.length ≤ size) :
    Memory.wf size (Memory.writeList m i vs) = true := by
  induction vs generalizing m i with
  | nil => exact h
  | cons v vs ih =>
    simp only [List.length_cons] at hi
    exact ih (Memory.wf_write v h (by omega)) (by omega)

theorem Memory.read_of_lt {size lo k : Nat} {m : Memory α} (h : Memory.wfFrom size lo m = true)
    (hk : k < lo) : Memory.read m k = none := by
  induction m generalizing lo with
  | nil => rfl
  | cons p m ih =>
    obtain ⟨j, w⟩ := p
    simp only [Memory.wfFrom, Bool.and_eq_true, decide_eq_true_eq] at h
    obtain ⟨⟨h1, _⟩, h3⟩ := h
    have hne : k ≠ j := by omega
    simp only [Memory.read, if_neg hne]
    exact ih h3 (by omega)

/-- An element outside a canonical table holds no value. -/
theorem Memory.read_of_size_le {size lo k : Nat} {m : Memory α} (h : Memory.wfFrom size lo m = true)
    (hk : size ≤ k) : Memory.read m k = none := by
  induction m generalizing lo with
  | nil => rfl
  | cons p m ih =>
    obtain ⟨j, w⟩ := p
    simp only [Memory.wfFrom, Bool.and_eq_true, decide_eq_true_eq] at h
    obtain ⟨⟨_, h2⟩, h3⟩ := h
    have hne : k ≠ j := by omega
    simp only [Memory.read, if_neg hne]
    exact ih h3

theorem Memory.ext_from {size lo : Nat} {m m' : Memory α} (h : Memory.wfFrom size lo m = true)
    (h' : Memory.wfFrom size lo m' = true) (e : ∀ i, Memory.read m i = Memory.read m' i) : m = m' := by
  induction m generalizing lo m' with
  | nil =>
    cases m' with
    | nil => rfl
    | cons p m' =>
      have := e p.1
      simp [Memory.read] at this
  | cons p m ih =>
    obtain ⟨j, w⟩ := p
    cases m' with
    | nil =>
      have := e j
      simp [Memory.read] at this
    | cons p' m' =>
      obtain ⟨j', w'⟩ := p'
      simp only [Memory.wfFrom, Bool.and_eq_true, decide_eq_true_eq] at h h'
      have hjj : j = j' := by
        rcases Nat.lt_trichotomy j j' with hlt | heq | hgt
        · have := e j
          rw [Memory.read_of_lt (lo := j') (m := (j', w') :: m') (size := size)
            (by simp [Memory.wfFrom, h'.1.2, h'.2]) hlt] at this
          simp [Memory.read] at this
        · exact heq
        · have := e j'
          rw [Memory.read_of_lt (lo := j) (m := (j, w) :: m) (size := size)
            (by simp [Memory.wfFrom, h.1.2, h.2]) hgt] at this
          simp [Memory.read] at this
      subst hjj
      have hw : w = w' := by
        have := e j
        simpa [Memory.read] using this
      subst hw
      congr 1
      refine ih h.2 h'.2 fun i => ?_
      by_cases hij : i = j
      · subst hij
        rw [Memory.read_of_lt h.2 (Nat.lt_succ_self i), Memory.read_of_lt h'.2 (Nat.lt_succ_self i)]
      · have := e i
        simpa only [Memory.read, if_neg hij] using this

/-- Canonical tables that read the same are equal data. -/
theorem Memory.ext_of_read {size : Nat} {m m' : Memory α} (h : Memory.wf size m = true)
    (h' : Memory.wf size m' = true) (e : ∀ i, Memory.read m i = Memory.read m' i) : m = m' :=
  Memory.ext_from h h' e

end Sys2Proof.Machine
end

