-- ==== Sys2Proof/Laws/Operation.lean ====
section
/-! SUPPORT. Small laws of the operation level (40_key_schedule.md R92, R94, R95). -/

namespace Sys2Proof.Machine

theorem packFrom_length (key : List Byte) (n : Nat) (L : List Word) : (packFrom key n L).length = L.length := by
  induction n generalizing L with
  | zero => rfl
  | succ n ih => rw [packFrom, ih, List.length_set]

@[simp] theorem initTable_length (t : Nat) : (initTable t).length = t := by
  simp [initTable]

theorem initTable_succ (t : Nat) : initTable (t + 1) = initTable t ++ [initWord t] := by
  simp [initTable, List.range_succ]

/-- One iteration more, at the end. -/
theorem mixRun_succ (t c n : Nat) (m : MixState) : mixRun t c (n + 1) m = mixStep t c (mixRun t c n m) := by
  induction n generalizing m with
  | zero => rfl
  | succ n ih => rw [mixRun, ih, mixRun]

theorem mixRun_S_length (t c n : Nat) (m : MixState) : (mixRun t c n m).S.length = m.S.length := by
  induction n generalizing m with
  | zero => rfl
  | succ n ih => rw [mixRun, ih, mixStep, List.length_set]

end Sys2Proof.Machine
end

