-- ==== Sys2Proof/Laws/State.lean ====
section
/-! SUPPORT. One lemma per field of `State` and per named update, so that no proof unfolds a record update. -/

namespace Sys2Proof.Machine

/-! ### `raise` (R155) -/

@[simp] theorem raise_A (x : Status) (s : State) : (raise x s).A = s.A := rfl
@[simp] theorem raise_B (x : Status) (s : State) : (raise x s).B = s.B := rfl
@[simp] theorem raise_SI (x : Status) (s : State) : (raise x s).SI = s.SI := rfl
@[simp] theorem raise_LJ (x : Status) (s : State) : (raise x s).LJ = s.LJ := rfl
@[simp] theorem raise_CNT (x : Status) (s : State) : (raise x s).CNT = s.CNT := rfl
@[simp] theorem raise_KLEN (x : Status) (s : State) : (raise x s).KLEN = s.KLEN := rfl
@[simp] theorem raise_C (x : Status) (s : State) : (raise x s).C = s.C := rfl
@[simp] theorem raise_S (x : Status) (s : State) : (raise x s).S = s.S := rfl
@[simp] theorem raise_L (x : Status) (s : State) : (raise x s).L = s.L := rfl
@[simp] theorem raise_KEYBUF (x : Status) (s : State) : (raise x s).KEYBUF = s.KEYBUF := rfl
@[simp] theorem raise_DOUT (x : Status) (s : State) : (raise x s).DOUT = s.DOUT := rfl
@[simp] theorem raise_PHASE (x : Status) (s : State) : (raise x s).PHASE = s.PHASE := rfl
@[simp] theorem raise_KEY_VALID (x : Status) (s : State) : (raise x s).KEY_VALID = s.KEY_VALID := rfl
@[simp] theorem raise_RESP_VALID (x : Status) (s : State) : (raise x s).RESP_VALID = true := rfl
@[simp] theorem raise_RESP_STATUS (x : Status) (s : State) : (raise x s).RESP_STATUS = x := rfl
@[simp] theorem raise_RESP_LEN (x : Status) (s : State) : (raise x s).RESP_LEN = 0 := rfl
@[simp] theorem raise_schedule (x : Status) (s : State) : (raise x s).schedule = s.schedule := rfl
@[simp] theorem raise_replies (x : Status) (s : State) : (raise x s).replies = s.replies := rfl

/-! ### `respondOk` (R154) -/

@[simp] theorem respondOk_A (n : BitVec 4) (s : State) : (respondOk n s).A = s.A := rfl
@[simp] theorem respondOk_B (n : BitVec 4) (s : State) : (respondOk n s).B = s.B := rfl
@[simp] theorem respondOk_SI (n : BitVec 4) (s : State) : (respondOk n s).SI = s.SI := rfl
@[simp] theorem respondOk_LJ (n : BitVec 4) (s : State) : (respondOk n s).LJ = s.LJ := rfl
@[simp] theorem respondOk_CNT (n : BitVec 4) (s : State) : (respondOk n s).CNT = s.CNT := rfl
@[simp] theorem respondOk_KLEN (n : BitVec 4) (s : State) : (respondOk n s).KLEN = s.KLEN := rfl
@[simp] theorem respondOk_C (n : BitVec 4) (s : State) : (respondOk n s).C = s.C := rfl
@[simp] theorem respondOk_S (n : BitVec 4) (s : State) : (respondOk n s).S = s.S := rfl
@[simp] theorem respondOk_L (n : BitVec 4) (s : State) : (respondOk n s).L = s.L := rfl
@[simp] theorem respondOk_KEYBUF (n : BitVec 4) (s : State) : (respondOk n s).KEYBUF = s.KEYBUF := rfl
@[simp] theorem respondOk_DOUT (n : BitVec 4) (s : State) : (respondOk n s).DOUT = s.DOUT := rfl
@[simp] theorem respondOk_PHASE (n : BitVec 4) (s : State) : (respondOk n s).PHASE = .IDLE := rfl
@[simp] theorem respondOk_KEY_VALID (n : BitVec 4) (s : State) : (respondOk n s).KEY_VALID = s.KEY_VALID := rfl
@[simp] theorem respondOk_RESP_VALID (n : BitVec 4) (s : State) : (respondOk n s).RESP_VALID = true := rfl
@[simp] theorem respondOk_RESP_STATUS (n : BitVec 4) (s : State) : (respondOk n s).RESP_STATUS = .OK := rfl
@[simp] theorem respondOk_RESP_LEN (n : BitVec 4) (s : State) : (respondOk n s).RESP_LEN = n := rfl
@[simp] theorem respondOk_schedule (n : BitVec 4) (s : State) : (respondOk n s).schedule = s.schedule := rfl
@[simp] theorem respondOk_replies (n : BitVec 4) (s : State) : (respondOk n s).replies = s.replies := rfl

/-! ### `acceptLoadkey` (R96) -/

@[simp] theorem acceptLoadkey_A (p : List Byte) (s : State) : (acceptLoadkey p s).A = s.A := rfl
@[simp] theorem acceptLoadkey_B (p : List Byte) (s : State) : (acceptLoadkey p s).B = s.B := rfl
@[simp] theorem acceptLoadkey_SI (p : List Byte) (s : State) : (acceptLoadkey p s).SI = s.SI := rfl
@[simp] theorem acceptLoadkey_LJ (p : List Byte) (s : State) : (acceptLoadkey p s).LJ = s.LJ := rfl
@[simp] theorem acceptLoadkey_CNT (p : List Byte) (s : State) : (acceptLoadkey p s).CNT = BitVec.ofNat 8 p.length := rfl
@[simp] theorem acceptLoadkey_KLEN (p : List Byte) (s : State) : (acceptLoadkey p s).KLEN = BitVec.ofNat 8 p.length := rfl
@[simp] theorem acceptLoadkey_C (p : List Byte) (s : State) : (acceptLoadkey p s).C = BitVec.ofNat 7 (Config.numWords p.length) := rfl
@[simp] theorem acceptLoadkey_S (p : List Byte) (s : State) : (acceptLoadkey p s).S = s.S := rfl
@[simp] theorem acceptLoadkey_L (p : List Byte) (s : State) : (acceptLoadkey p s).L = Memory.writeList s.L 0 (List.replicate (Config.numWords p.length) 0) := rfl
@[simp] theorem acceptLoadkey_KEYBUF (p : List Byte) (s : State) : (acceptLoadkey p s).KEYBUF = Memory.writeList s.KEYBUF 0 p := rfl
@[simp] theorem acceptLoadkey_DOUT (p : List Byte) (s : State) : (acceptLoadkey p s).DOUT = s.DOUT := rfl
@[simp] theorem acceptLoadkey_PHASE (p : List Byte) (s : State) : (acceptLoadkey p s).PHASE = .K_PACK := rfl
@[simp] theorem acceptLoadkey_KEY_VALID (p : List Byte) (s : State) : (acceptLoadkey p s).KEY_VALID = false := rfl
@[simp] theorem acceptLoadkey_RESP_VALID (p : List Byte) (s : State) : (acceptLoadkey p s).RESP_VALID = s.RESP_VALID := rfl
@[simp] theorem acceptLoadkey_RESP_STATUS (p : List Byte) (s : State) : (acceptLoadkey p s).RESP_STATUS = s.RESP_STATUS := rfl
@[simp] theorem acceptLoadkey_RESP_LEN (p : List Byte) (s : State) : (acceptLoadkey p s).RESP_LEN = s.RESP_LEN := rfl
@[simp] theorem acceptLoadkey_schedule (p : List Byte) (s : State) : (acceptLoadkey p s).schedule = s.schedule := rfl
@[simp] theorem acceptLoadkey_replies (p : List Byte) (s : State) : (acceptLoadkey p s).replies = s.replies := rfl

/-! ### `acceptEncrypt` (R113) -/

@[simp] theorem acceptEncrypt_A (p : List Byte) (s : State) : (acceptEncrypt p s).A = blockA p := rfl
@[simp] theorem acceptEncrypt_B (p : List Byte) (s : State) : (acceptEncrypt p s).B = blockB p := rfl
@[simp] theorem acceptEncrypt_SI (p : List Byte) (s : State) : (acceptEncrypt p s).SI = 0 := rfl
@[simp] theorem acceptEncrypt_LJ (p : List Byte) (s : State) : (acceptEncrypt p s).LJ = s.LJ := rfl
@[simp] theorem acceptEncrypt_CNT (p : List Byte) (s : State) : (acceptEncrypt p s).CNT = s.CNT := rfl
@[simp] theorem acceptEncrypt_KLEN (p : List Byte) (s : State) : (acceptEncrypt p s).KLEN = s.KLEN := rfl
@[simp] theorem acceptEncrypt_C (p : List Byte) (s : State) : (acceptEncrypt p s).C = s.C := rfl
@[simp] theorem acceptEncrypt_S (p : List Byte) (s : State) : (acceptEncrypt p s).S = s.S := rfl
@[simp] theorem acceptEncrypt_L (p : List Byte) (s : State) : (acceptEncrypt p s).L = s.L := rfl
@[simp] theorem acceptEncrypt_KEYBUF (p : List Byte) (s : State) : (acceptEncrypt p s).KEYBUF = s.KEYBUF := rfl
@[simp] theorem acceptEncrypt_DOUT (p : List Byte) (s : State) : (acceptEncrypt p s).DOUT = s.DOUT := rfl
@[simp] theorem acceptEncrypt_PHASE (p : List Byte) (s : State) : (acceptEncrypt p s).PHASE = .ENC := rfl
@[simp] theorem acceptEncrypt_KEY_VALID (p : List Byte) (s : State) : (acceptEncrypt p s).KEY_VALID = s.KEY_VALID := rfl
@[simp] theorem acceptEncrypt_RESP_VALID (p : List Byte) (s : State) : (acceptEncrypt p s).RESP_VALID = s.RESP_VALID := rfl
@[simp] theorem acceptEncrypt_RESP_STATUS (p : List Byte) (s : State) : (acceptEncrypt p s).RESP_STATUS = s.RESP_STATUS := rfl
@[simp] theorem acceptEncrypt_RESP_LEN (p : List Byte) (s : State) : (acceptEncrypt p s).RESP_LEN = s.RESP_LEN := rfl
@[simp] theorem acceptEncrypt_schedule (p : List Byte) (s : State) : (acceptEncrypt p s).schedule = s.schedule := rfl
@[simp] theorem acceptEncrypt_replies (p : List Byte) (s : State) : (acceptEncrypt p s).replies = s.replies := rfl

/-! ### `acceptDecrypt` (R123) -/

@[simp] theorem acceptDecrypt_A (p : List Byte) (s : State) : (acceptDecrypt p s).A = blockA p := rfl
@[simp] theorem acceptDecrypt_B (p : List Byte) (s : State) : (acceptDecrypt p s).B = blockB p := rfl
@[simp] theorem acceptDecrypt_SI (p : List Byte) (s : State) : (acceptDecrypt p s).SI = BitVec.ofNat 5 (Config.T - 1) := rfl
@[simp] theorem acceptDecrypt_LJ (p : List Byte) (s : State) : (acceptDecrypt p s).LJ = s.LJ := rfl
@[simp] theorem acceptDecrypt_CNT (p : List Byte) (s : State) : (acceptDecrypt p s).CNT = s.CNT := rfl
@[simp] theorem acceptDecrypt_KLEN (p : List Byte) (s : State) : (acceptDecrypt p s).KLEN = s.KLEN := rfl
@[simp] theorem acceptDecrypt_C (p : List Byte) (s : State) : (acceptDecrypt p s).C = s.C := rfl
@[simp] theorem acceptDecrypt_S (p : List Byte) (s : State) : (acceptDecrypt p s).S = s.S := rfl
@[simp] theorem acceptDecrypt_L (p : List Byte) (s : State) : (acceptDecrypt p s).L = s.L := rfl
@[simp] theorem acceptDecrypt_KEYBUF (p : List Byte) (s : State) : (acceptDecrypt p s).KEYBUF = s.KEYBUF := rfl
@[simp] theorem acceptDecrypt_DOUT (p : List Byte) (s : State) : (acceptDecrypt p s).DOUT = s.DOUT := rfl
@[simp] theorem acceptDecrypt_PHASE (p : List Byte) (s : State) : (acceptDecrypt p s).PHASE = .DEC := rfl
@[simp] theorem acceptDecrypt_KEY_VALID (p : List Byte) (s : State) : (acceptDecrypt p s).KEY_VALID = s.KEY_VALID := rfl
@[simp] theorem acceptDecrypt_RESP_VALID (p : List Byte) (s : State) : (acceptDecrypt p s).RESP_VALID = s.RESP_VALID := rfl
@[simp] theorem acceptDecrypt_RESP_STATUS (p : List Byte) (s : State) : (acceptDecrypt p s).RESP_STATUS = s.RESP_STATUS := rfl
@[simp] theorem acceptDecrypt_RESP_LEN (p : List Byte) (s : State) : (acceptDecrypt p s).RESP_LEN = s.RESP_LEN := rfl
@[simp] theorem acceptDecrypt_schedule (p : List Byte) (s : State) : (acceptDecrypt p s).schedule = s.schedule := rfl
@[simp] theorem acceptDecrypt_replies (p : List Byte) (s : State) : (acceptDecrypt p s).replies = s.replies := rfl

/-! ### `completeBlock` (R115, R125) -/

@[simp] theorem completeBlock_A (s : State) : (completeBlock s).A = s.A := rfl
@[simp] theorem completeBlock_B (s : State) : (completeBlock s).B = s.B := rfl
@[simp] theorem completeBlock_SI (s : State) : (completeBlock s).SI = s.SI := rfl
@[simp] theorem completeBlock_LJ (s : State) : (completeBlock s).LJ = s.LJ := rfl
@[simp] theorem completeBlock_CNT (s : State) : (completeBlock s).CNT = s.CNT := rfl
@[simp] theorem completeBlock_KLEN (s : State) : (completeBlock s).KLEN = s.KLEN := rfl
@[simp] theorem completeBlock_C (s : State) : (completeBlock s).C = s.C := rfl
@[simp] theorem completeBlock_S (s : State) : (completeBlock s).S = s.S := rfl
@[simp] theorem completeBlock_L (s : State) : (completeBlock s).L = s.L := rfl
@[simp] theorem completeBlock_KEYBUF (s : State) : (completeBlock s).KEYBUF = s.KEYBUF := rfl
@[simp] theorem completeBlock_DOUT (s : State) : (completeBlock s).DOUT = Memory.writeList s.DOUT 0 (blockBytes s.A s.B) := rfl
@[simp] theorem completeBlock_PHASE (s : State) : (completeBlock s).PHASE = .IDLE := rfl
@[simp] theorem completeBlock_KEY_VALID (s : State) : (completeBlock s).KEY_VALID = s.KEY_VALID := rfl
@[simp] theorem completeBlock_RESP_VALID (s : State) : (completeBlock s).RESP_VALID = true := rfl
@[simp] theorem completeBlock_RESP_STATUS (s : State) : (completeBlock s).RESP_STATUS = .OK := rfl
@[simp] theorem completeBlock_RESP_LEN (s : State) : (completeBlock s).RESP_LEN = 8 := rfl
@[simp] theorem completeBlock_schedule (s : State) : (completeBlock s).schedule = s.schedule := rfl
@[simp] theorem completeBlock_replies (s : State) : (completeBlock s).replies = s.replies := rfl

/-! ### `completeKey` (R100) -/

@[simp] theorem completeKey_A (s : State) : (completeKey s).A = s.A := rfl
@[simp] theorem completeKey_B (s : State) : (completeKey s).B = s.B := rfl
@[simp] theorem completeKey_SI (s : State) : (completeKey s).SI = s.SI := rfl
@[simp] theorem completeKey_LJ (s : State) : (completeKey s).LJ = s.LJ := rfl
@[simp] theorem completeKey_CNT (s : State) : (completeKey s).CNT = s.CNT := rfl
@[simp] theorem completeKey_KLEN (s : State) : (completeKey s).KLEN = s.KLEN := rfl
@[simp] theorem completeKey_C (s : State) : (completeKey s).C = s.C := rfl
@[simp] theorem completeKey_S (s : State) : (completeKey s).S = s.S := rfl
@[simp] theorem completeKey_L (s : State) : (completeKey s).L = s.L := rfl
@[simp] theorem completeKey_KEYBUF (s : State) : (completeKey s).KEYBUF = s.KEYBUF := rfl
@[simp] theorem completeKey_DOUT (s : State) : (completeKey s).DOUT = s.DOUT := rfl
@[simp] theorem completeKey_PHASE (s : State) : (completeKey s).PHASE = .IDLE := rfl
@[simp] theorem completeKey_KEY_VALID (s : State) : (completeKey s).KEY_VALID = true := rfl
@[simp] theorem completeKey_RESP_VALID (s : State) : (completeKey s).RESP_VALID = true := rfl
@[simp] theorem completeKey_RESP_STATUS (s : State) : (completeKey s).RESP_STATUS = .OK := rfl
@[simp] theorem completeKey_RESP_LEN (s : State) : (completeKey s).RESP_LEN = 0 := rfl
@[simp] theorem completeKey_schedule (s : State) : (completeKey s).schedule = s.schedule := rfl
@[simp] theorem completeKey_replies (s : State) : (completeKey s).replies = s.replies := rfl

/-! ### `resetEngine` (R181) -/

@[simp] theorem resetEngine_A (s : State) : (resetEngine s).A = 0 := rfl
@[simp] theorem resetEngine_B (s : State) : (resetEngine s).B = 0 := rfl
@[simp] theorem resetEngine_SI (s : State) : (resetEngine s).SI = 0 := rfl
@[simp] theorem resetEngine_LJ (s : State) : (resetEngine s).LJ = 0 := rfl
@[simp] theorem resetEngine_CNT (s : State) : (resetEngine s).CNT = 0 := rfl
@[simp] theorem resetEngine_KLEN (s : State) : (resetEngine s).KLEN = 0 := rfl
@[simp] theorem resetEngine_C (s : State) : (resetEngine s).C = 0 := rfl
@[simp] theorem resetEngine_S (s : State) : (resetEngine s).S = [] := rfl
@[simp] theorem resetEngine_L (s : State) : (resetEngine s).L = [] := rfl
@[simp] theorem resetEngine_KEYBUF (s : State) : (resetEngine s).KEYBUF = [] := rfl
@[simp] theorem resetEngine_DOUT (s : State) : (resetEngine s).DOUT = [] := rfl
@[simp] theorem resetEngine_PHASE (s : State) : (resetEngine s).PHASE = .IDLE := rfl
@[simp] theorem resetEngine_KEY_VALID (s : State) : (resetEngine s).KEY_VALID = false := rfl
@[simp] theorem resetEngine_RESP_VALID (s : State) : (resetEngine s).RESP_VALID = false := rfl
@[simp] theorem resetEngine_RESP_STATUS (s : State) : (resetEngine s).RESP_STATUS = .OK := rfl
@[simp] theorem resetEngine_RESP_LEN (s : State) : (resetEngine s).RESP_LEN = 0 := rfl
@[simp] theorem resetEngine_schedule (s : State) : (resetEngine s).schedule = s.schedule := rfl
@[simp] theorem resetEngine_replies (s : State) : (resetEngine s).replies = s.replies := rfl

/-! ### `placeFrame` -/

@[simp] theorem placeFrame_A (bs : List Byte) (s : State) : (placeFrame bs s).A = s.A := rfl
@[simp] theorem placeFrame_B (bs : List Byte) (s : State) : (placeFrame bs s).B = s.B := rfl
@[simp] theorem placeFrame_SI (bs : List Byte) (s : State) : (placeFrame bs s).SI = s.SI := rfl
@[simp] theorem placeFrame_LJ (bs : List Byte) (s : State) : (placeFrame bs s).LJ = s.LJ := rfl
@[simp] theorem placeFrame_CNT (bs : List Byte) (s : State) : (placeFrame bs s).CNT = s.CNT := rfl
@[simp] theorem placeFrame_KLEN (bs : List Byte) (s : State) : (placeFrame bs s).KLEN = s.KLEN := rfl
@[simp] theorem placeFrame_C (bs : List Byte) (s : State) : (placeFrame bs s).C = s.C := rfl
@[simp] theorem placeFrame_S (bs : List Byte) (s : State) : (placeFrame bs s).S = s.S := rfl
@[simp] theorem placeFrame_L (bs : List Byte) (s : State) : (placeFrame bs s).L = s.L := rfl
@[simp] theorem placeFrame_KEYBUF (bs : List Byte) (s : State) : (placeFrame bs s).KEYBUF = s.KEYBUF := rfl
@[simp] theorem placeFrame_DOUT (bs : List Byte) (s : State) : (placeFrame bs s).DOUT = s.DOUT := rfl
@[simp] theorem placeFrame_PHASE (bs : List Byte) (s : State) : (placeFrame bs s).PHASE = .IDLE := rfl
@[simp] theorem placeFrame_KEY_VALID (bs : List Byte) (s : State) : (placeFrame bs s).KEY_VALID = s.KEY_VALID := rfl
@[simp] theorem placeFrame_RESP_VALID (bs : List Byte) (s : State) : (placeFrame bs s).RESP_VALID = s.RESP_VALID := rfl
@[simp] theorem placeFrame_RESP_STATUS (bs : List Byte) (s : State) : (placeFrame bs s).RESP_STATUS = s.RESP_STATUS := rfl
@[simp] theorem placeFrame_RESP_LEN (bs : List Byte) (s : State) : (placeFrame bs s).RESP_LEN = s.RESP_LEN := rfl
@[simp] theorem placeFrame_schedule (bs : List Byte) (s : State) : (placeFrame bs s).schedule = .issue bs :: s.schedule := rfl
@[simp] theorem placeFrame_replies (bs : List Byte) (s : State) : (placeFrame bs s).replies = s.replies := rfl

/-! ### `failed` (R155) -/

@[simp] theorem failed_A (x : Status) (later : List Turn) (s : State) : (failed x later s).A = s.A := rfl
@[simp] theorem failed_B (x : Status) (later : List Turn) (s : State) : (failed x later s).B = s.B := rfl
@[simp] theorem failed_SI (x : Status) (later : List Turn) (s : State) : (failed x later s).SI = s.SI := rfl
@[simp] theorem failed_LJ (x : Status) (later : List Turn) (s : State) : (failed x later s).LJ = s.LJ := rfl
@[simp] theorem failed_CNT (x : Status) (later : List Turn) (s : State) : (failed x later s).CNT = s.CNT := rfl
@[simp] theorem failed_KLEN (x : Status) (later : List Turn) (s : State) : (failed x later s).KLEN = s.KLEN := rfl
@[simp] theorem failed_C (x : Status) (later : List Turn) (s : State) : (failed x later s).C = s.C := rfl
@[simp] theorem failed_S (x : Status) (later : List Turn) (s : State) : (failed x later s).S = s.S := rfl
@[simp] theorem failed_L (x : Status) (later : List Turn) (s : State) : (failed x later s).L = s.L := rfl
@[simp] theorem failed_KEYBUF (x : Status) (later : List Turn) (s : State) : (failed x later s).KEYBUF = s.KEYBUF := rfl
@[simp] theorem failed_DOUT (x : Status) (later : List Turn) (s : State) : (failed x later s).DOUT = s.DOUT := rfl
@[simp] theorem failed_PHASE (x : Status) (later : List Turn) (s : State) : (failed x later s).PHASE = s.PHASE := rfl
@[simp] theorem failed_KEY_VALID (x : Status) (later : List Turn) (s : State) : (failed x later s).KEY_VALID = s.KEY_VALID := rfl
@[simp] theorem failed_RESP_VALID (x : Status) (later : List Turn) (s : State) : (failed x later s).RESP_VALID = true := rfl
@[simp] theorem failed_RESP_STATUS (x : Status) (later : List Turn) (s : State) : (failed x later s).RESP_STATUS = x := rfl
@[simp] theorem failed_RESP_LEN (x : Status) (later : List Turn) (s : State) : (failed x later s).RESP_LEN = 0 := rfl
@[simp] theorem failed_schedule (x : Status) (later : List Turn) (s : State) : (failed x later s).schedule = later := rfl
@[simp] theorem failed_replies (x : Status) (later : List Turn) (s : State) : (failed x later s).replies = s.replies := rfl

/-! ### `encWhiten` (R114): only `A` or `B` -/

@[simp] theorem encWhiten_SI (k : Nat) (w : Word) (s : State) : (encWhiten k w s).SI = s.SI := by
  unfold encWhiten; split <;> rfl
@[simp] theorem encWhiten_LJ (k : Nat) (w : Word) (s : State) : (encWhiten k w s).LJ = s.LJ := by
  unfold encWhiten; split <;> rfl
@[simp] theorem encWhiten_CNT (k : Nat) (w : Word) (s : State) : (encWhiten k w s).CNT = s.CNT := by
  unfold encWhiten; split <;> rfl
@[simp] theorem encWhiten_KLEN (k : Nat) (w : Word) (s : State) : (encWhiten k w s).KLEN = s.KLEN := by
  unfold encWhiten; split <;> rfl
@[simp] theorem encWhiten_C (k : Nat) (w : Word) (s : State) : (encWhiten k w s).C = s.C := by
  unfold encWhiten; split <;> rfl
@[simp] theorem encWhiten_S (k : Nat) (w : Word) (s : State) : (encWhiten k w s).S = s.S := by
  unfold encWhiten; split <;> rfl
@[simp] theorem encWhiten_L (k : Nat) (w : Word) (s : State) : (encWhiten k w s).L = s.L := by
  unfold encWhiten; split <;> rfl
@[simp] theorem encWhiten_KEYBUF (k : Nat) (w : Word) (s : State) : (encWhiten k w s).KEYBUF = s.KEYBUF := by
  unfold encWhiten; split <;> rfl
@[simp] theorem encWhiten_DOUT (k : Nat) (w : Word) (s : State) : (encWhiten k w s).DOUT = s.DOUT := by
  unfold encWhiten; split <;> rfl
@[simp] theorem encWhiten_PHASE (k : Nat) (w : Word) (s : State) : (encWhiten k w s).PHASE = s.PHASE := by
  unfold encWhiten; split <;> rfl
@[simp] theorem encWhiten_KEY_VALID (k : Nat) (w : Word) (s : State) : (encWhiten k w s).KEY_VALID = s.KEY_VALID := by
  unfold encWhiten; split <;> rfl
@[simp] theorem encWhiten_RESP_VALID (k : Nat) (w : Word) (s : State) : (encWhiten k w s).RESP_VALID = s.RESP_VALID := by
  unfold encWhiten; split <;> rfl
@[simp] theorem encWhiten_RESP_STATUS (k : Nat) (w : Word) (s : State) : (encWhiten k w s).RESP_STATUS = s.RESP_STATUS := by
  unfold encWhiten; split <;> rfl
@[simp] theorem encWhiten_RESP_LEN (k : Nat) (w : Word) (s : State) : (encWhiten k w s).RESP_LEN = s.RESP_LEN := by
  unfold encWhiten; split <;> rfl
@[simp] theorem encWhiten_schedule (k : Nat) (w : Word) (s : State) : (encWhiten k w s).schedule = s.schedule := by
  unfold encWhiten; split <;> rfl
@[simp] theorem encWhiten_replies (k : Nat) (w : Word) (s : State) : (encWhiten k w s).replies = s.replies := by
  unfold encWhiten; split <;> rfl

/-! ### `encHalfRound` (R115): only `A` or `B` -/

@[simp] theorem encHalfRound_SI (k : Nat) (w : Word) (s : State) : (encHalfRound k w s).SI = s.SI := by
  unfold encHalfRound; split <;> rfl
@[simp] theorem encHalfRound_LJ (k : Nat) (w : Word) (s : State) : (encHalfRound k w s).LJ = s.LJ := by
  unfold encHalfRound; split <;> rfl
@[simp] theorem encHalfRound_CNT (k : Nat) (w : Word) (s : State) : (encHalfRound k w s).CNT = s.CNT := by
  unfold encHalfRound; split <;> rfl
@[simp] theorem encHalfRound_KLEN (k : Nat) (w : Word) (s : State) : (encHalfRound k w s).KLEN = s.KLEN := by
  unfold encHalfRound; split <;> rfl
@[simp] theorem encHalfRound_C (k : Nat) (w : Word) (s : State) : (encHalfRound k w s).C = s.C := by
  unfold encHalfRound; split <;> rfl
@[simp] theorem encHalfRound_S (k : Nat) (w : Word) (s : State) : (encHalfRound k w s).S = s.S := by
  unfold encHalfRound; split <;> rfl
@[simp] theorem encHalfRound_L (k : Nat) (w : Word) (s : State) : (encHalfRound k w s).L = s.L := by
  unfold encHalfRound; split <;> rfl
@[simp] theorem encHalfRound_KEYBUF (k : Nat) (w : Word) (s : State) : (encHalfRound k w s).KEYBUF = s.KEYBUF := by
  unfold encHalfRound; split <;> rfl
@[simp] theorem encHalfRound_DOUT (k : Nat) (w : Word) (s : State) : (encHalfRound k w s).DOUT = s.DOUT := by
  unfold encHalfRound; split <;> rfl
@[simp] theorem encHalfRound_PHASE (k : Nat) (w : Word) (s : State) : (encHalfRound k w s).PHASE = s.PHASE := by
  unfold encHalfRound; split <;> rfl
@[simp] theorem encHalfRound_KEY_VALID (k : Nat) (w : Word) (s : State) : (encHalfRound k w s).KEY_VALID = s.KEY_VALID := by
  unfold encHalfRound; split <;> rfl
@[simp] theorem encHalfRound_RESP_VALID (k : Nat) (w : Word) (s : State) : (encHalfRound k w s).RESP_VALID = s.RESP_VALID := by
  unfold encHalfRound; split <;> rfl
@[simp] theorem encHalfRound_RESP_STATUS (k : Nat) (w : Word) (s : State) : (encHalfRound k w s).RESP_STATUS = s.RESP_STATUS := by
  unfold encHalfRound; split <;> rfl
@[simp] theorem encHalfRound_RESP_LEN (k : Nat) (w : Word) (s : State) : (encHalfRound k w s).RESP_LEN = s.RESP_LEN := by
  unfold encHalfRound; split <;> rfl
@[simp] theorem encHalfRound_schedule (k : Nat) (w : Word) (s : State) : (encHalfRound k w s).schedule = s.schedule := by
  unfold encHalfRound; split <;> rfl
@[simp] theorem encHalfRound_replies (k : Nat) (w : Word) (s : State) : (encHalfRound k w s).replies = s.replies := by
  unfold encHalfRound; split <;> rfl

/-! ### `decHalfRound` (R124): only `A` or `B` -/

@[simp] theorem decHalfRound_SI (k : Nat) (w : Word) (s : State) : (decHalfRound k w s).SI = s.SI := by
  unfold decHalfRound; split <;> rfl
@[simp] theorem decHalfRound_LJ (k : Nat) (w : Word) (s : State) : (decHalfRound k w s).LJ = s.LJ := by
  unfold decHalfRound; split <;> rfl
@[simp] theorem decHalfRound_CNT (k : Nat) (w : Word) (s : State) : (decHalfRound k w s).CNT = s.CNT := by
  unfold decHalfRound; split <;> rfl
@[simp] theorem decHalfRound_KLEN (k : Nat) (w : Word) (s : State) : (decHalfRound k w s).KLEN = s.KLEN := by
  unfold decHalfRound; split <;> rfl
@[simp] theorem decHalfRound_C (k : Nat) (w : Word) (s : State) : (decHalfRound k w s).C = s.C := by
  unfold decHalfRound; split <;> rfl
@[simp] theorem decHalfRound_S (k : Nat) (w : Word) (s : State) : (decHalfRound k w s).S = s.S := by
  unfold decHalfRound; split <;> rfl
@[simp] theorem decHalfRound_L (k : Nat) (w : Word) (s : State) : (decHalfRound k w s).L = s.L := by
  unfold decHalfRound; split <;> rfl
@[simp] theorem decHalfRound_KEYBUF (k : Nat) (w : Word) (s : State) : (decHalfRound k w s).KEYBUF = s.KEYBUF := by
  unfold decHalfRound; split <;> rfl
@[simp] theorem decHalfRound_DOUT (k : Nat) (w : Word) (s : State) : (decHalfRound k w s).DOUT = s.DOUT := by
  unfold decHalfRound; split <;> rfl
@[simp] theorem decHalfRound_PHASE (k : Nat) (w : Word) (s : State) : (decHalfRound k w s).PHASE = s.PHASE := by
  unfold decHalfRound; split <;> rfl
@[simp] theorem decHalfRound_KEY_VALID (k : Nat) (w : Word) (s : State) : (decHalfRound k w s).KEY_VALID = s.KEY_VALID := by
  unfold decHalfRound; split <;> rfl
@[simp] theorem decHalfRound_RESP_VALID (k : Nat) (w : Word) (s : State) : (decHalfRound k w s).RESP_VALID = s.RESP_VALID := by
  unfold decHalfRound; split <;> rfl
@[simp] theorem decHalfRound_RESP_STATUS (k : Nat) (w : Word) (s : State) : (decHalfRound k w s).RESP_STATUS = s.RESP_STATUS := by
  unfold decHalfRound; split <;> rfl
@[simp] theorem decHalfRound_RESP_LEN (k : Nat) (w : Word) (s : State) : (decHalfRound k w s).RESP_LEN = s.RESP_LEN := by
  unfold decHalfRound; split <;> rfl
@[simp] theorem decHalfRound_schedule (k : Nat) (w : Word) (s : State) : (decHalfRound k w s).schedule = s.schedule := by
  unfold decHalfRound; split <;> rfl
@[simp] theorem decHalfRound_replies (k : Nat) (w : Word) (s : State) : (decHalfRound k w s).replies = s.replies := by
  unfold decHalfRound; split <;> rfl

/-! ### `decUnwhiten` (R125): only `A` or `B` -/

@[simp] theorem decUnwhiten_SI (k : Nat) (w : Word) (s : State) : (decUnwhiten k w s).SI = s.SI := by
  unfold decUnwhiten; split <;> rfl
@[simp] theorem decUnwhiten_LJ (k : Nat) (w : Word) (s : State) : (decUnwhiten k w s).LJ = s.LJ := by
  unfold decUnwhiten; split <;> rfl
@[simp] theorem decUnwhiten_CNT (k : Nat) (w : Word) (s : State) : (decUnwhiten k w s).CNT = s.CNT := by
  unfold decUnwhiten; split <;> rfl
@[simp] theorem decUnwhiten_KLEN (k : Nat) (w : Word) (s : State) : (decUnwhiten k w s).KLEN = s.KLEN := by
  unfold decUnwhiten; split <;> rfl
@[simp] theorem decUnwhiten_C (k : Nat) (w : Word) (s : State) : (decUnwhiten k w s).C = s.C := by
  unfold decUnwhiten; split <;> rfl
@[simp] theorem decUnwhiten_S (k : Nat) (w : Word) (s : State) : (decUnwhiten k w s).S = s.S := by
  unfold decUnwhiten; split <;> rfl
@[simp] theorem decUnwhiten_L (k : Nat) (w : Word) (s : State) : (decUnwhiten k w s).L = s.L := by
  unfold decUnwhiten; split <;> rfl
@[simp] theorem decUnwhiten_KEYBUF (k : Nat) (w : Word) (s : State) : (decUnwhiten k w s).KEYBUF = s.KEYBUF := by
  unfold decUnwhiten; split <;> rfl
@[simp] theorem decUnwhiten_DOUT (k : Nat) (w : Word) (s : State) : (decUnwhiten k w s).DOUT = s.DOUT := by
  unfold decUnwhiten; split <;> rfl
@[simp] theorem decUnwhiten_PHASE (k : Nat) (w : Word) (s : State) : (decUnwhiten k w s).PHASE = s.PHASE := by
  unfold decUnwhiten; split <;> rfl
@[simp] theorem decUnwhiten_KEY_VALID (k : Nat) (w : Word) (s : State) : (decUnwhiten k w s).KEY_VALID = s.KEY_VALID := by
  unfold decUnwhiten; split <;> rfl
@[simp] theorem decUnwhiten_RESP_VALID (k : Nat) (w : Word) (s : State) : (decUnwhiten k w s).RESP_VALID = s.RESP_VALID := by
  unfold decUnwhiten; split <;> rfl
@[simp] theorem decUnwhiten_RESP_STATUS (k : Nat) (w : Word) (s : State) : (decUnwhiten k w s).RESP_STATUS = s.RESP_STATUS := by
  unfold decUnwhiten; split <;> rfl
@[simp] theorem decUnwhiten_RESP_LEN (k : Nat) (w : Word) (s : State) : (decUnwhiten k w s).RESP_LEN = s.RESP_LEN := by
  unfold decUnwhiten; split <;> rfl
@[simp] theorem decUnwhiten_schedule (k : Nat) (w : Word) (s : State) : (decUnwhiten k w s).schedule = s.schedule := by
  unfold decUnwhiten; split <;> rfl
@[simp] theorem decUnwhiten_replies (k : Nat) (w : Word) (s : State) : (decUnwhiten k w s).replies = s.replies := by
  unfold decUnwhiten; split <;> rfl

end Sys2Proof.Machine
end

