-- ==== Sys2Proof/Laws/Ops.lean ====
section
/-! SUPPORT. What each shared operation can do, said once: its answers, by cases. -/

namespace Sys2Proof.Machine

/-! ### The parameters' values (00_scope.md R12) -/

@[simp] theorem T_eq : Config.T = 26 := rfl
@[simp] theorem R_eq : Config.R = 12 := rfl
@[simp] theorem KEY_MAX_eq : Config.KEY_MAX = 255 := rfl
@[simp] theorem KEY_MIN_eq : Config.KEY_MIN = 1 := rfl
@[simp] theorem C_MAX_eq : Config.C_MAX = 64 := rfl
@[simp] theorem BLOCK_BYTES_eq : Config.BLOCK_BYTES = 8 := rfl
@[simp] theorem size_S : Space.S.size = 26 := rfl
@[simp] theorem size_L : Space.L.size = 64 := rfl
@[simp] theorem size_KEYBUF : Space.KEYBUF.size = 255 := rfl
@[simp] theorem size_DOUT : Space.DOUT.size = 8 := rfl

theorem MIXN_eq (c : Nat) : Config.MIXN c = 3 * max 26 c := rfl

theorem numWords_eq (n : Nat) : Config.numWords n = (n + 3) / 4 := rfl

/-- `C` never passes the storage of `L` (R25). -/
theorem numWords_le (n : BitVec 8) : Config.numWords n.toNat ≤ 64 := by
  have := n.isLt
  rw [numWords_eq]
  omega

/-- The down counter (R23): one less, and when that is 0. -/
theorem cnt_sub_one {c : BitVec 8} (h : c ≠ 0) : (c - 1).toNat = c.toNat - 1 := by bv_omega

theorem cnt_sub_one_eq_zero {c : BitVec 8} : c - 1 = 0 ↔ c.toNat = 1 := by bv_omega

theorem payloadFits_iff (pay : List Byte) : payloadFits pay = true ↔ pay.length ≤ 255 :=
  decide_eq_true_iff

/-! ### `andThen` -/

variable {α β : Type}

@[simp] theorem andThen_of_next (x : α) (k : α → Result β) : andThen (.next x) k = k x := rfl

@[simp] theorem andThen_of_fault (f : Fault) (k : α → Result β) : andThen (.fault f) k = .fault f := rfl

@[simp] theorem andThen_of_refused (f : Refusal) (k : α → Result β) : andThen (.refused f) k = .refused f := rfl

theorem andThen_next {r : Result α} {k : α → Result β} {y : β} :
    andThen r k = .next y ↔ ∃ x, r = .next x ∧ k x = .next y := by
  cases r <;> simp [andThen]

theorem andThen_assoc {γ : Type} (r : Result α) (k : α → Result β) (l : β → Result γ) :
    andThen (andThen r k) l = andThen r fun x => andThen (k x) l := by
  cases r <;> rfl

/-! ### Table accesses -/

theorem readAt_next {sp : Space} {m : Memory α} {i : Nat} {v : α} :
    readAt sp m i = .next v ↔ i < sp.size ∧ Memory.read m i = some v := by
  unfold readAt
  split
  · rename_i h
    cases hm : Memory.read m i <;> simp [h]
  · rename_i h
    simp [h]

theorem readAt_refused {sp : Space} {m : Memory α} {i : Nat} {r : Refusal} :
    readAt sp m i ≠ .refused r := by
  unfold readAt
  split
  · cases Memory.read m i <;> simp
  · simp

theorem readLive_next {sp : Space} {m : Memory α} {live i : Nat} {v : α} :
    readLive sp m live i = .next v ↔ i < live ∧ i < sp.size ∧ Memory.read m i = some v := by
  unfold readLive
  split
  · rename_i h
    simp [h, readAt_next]
  · rename_i h
    simp [h]

/-- An index past the elements in use is out of range, whatever the table holds (R141, R159). -/
theorem readLive_out_of_range {sp : Space} {m : Memory α} {live i : Nat} (h : live ≤ i) :
    readLive sp m live i = .fault (.indexOutOfRange sp i) := if_neg (Nat.not_lt.2 h)

theorem readAt_out_of_range {sp : Space} {m : Memory α} {i : Nat} (h : sp.size ≤ i) :
    readAt sp m i = .fault (.indexOutOfRange sp i) := if_neg (Nat.not_lt.2 h)

theorem writeAt_next {sp : Space} {m m' : Memory α} {i : Nat} {v : α} :
    writeAt sp m i v = .next m' ↔ i < sp.size ∧ m' = Memory.write m i v := by
  unfold writeAt
  split
  · rename_i h
    simp [h, eq_comm]
  · rename_i h
    simp [h]

/-- Reading consecutive elements that hold the values `vs`. -/
theorem readList_of_read {sp : Space} {m : Memory α} (vs : List α) {i : Nat}
    (hs : i + vs.length ≤ sp.size) (h : ∀ k, k < vs.length → Memory.read m (i + k) = vs[k]?) :
    readList sp m i vs.length = .next vs := by
  induction vs generalizing i with
  | nil => rfl
  | cons v vs ih =>
    simp only [List.length_cons] at hs h
    have h0 : readAt sp m i = .next v :=
      readAt_next.2 ⟨by omega, by simpa using h 0 (by omega)⟩
    have ht : readList sp m (i + 1) vs.length = .next vs := by
      refine ih (by omega) fun k hk => ?_
      have := h (k + 1) (by omega)
      rwa [List.getElem?_cons_succ, show i + (k + 1) = i + 1 + k by omega] at this
    simp [readList, h0, ht]

/-! ### Acceptance -/

/-- Issue of a payload that fits, in `IDLE`: the command is judged with `RESP_VALID` cleared (R36). -/
theorem issueCommand_idle {pay : List Byte} {s : State} (judge : State → Result State)
    (hw : payloadFits pay = true) (hp : s.PHASE = .IDLE) :
    issueCommand pay s judge = judge { s with RESP_VALID := false } := by
  simp [issueCommand, hw, hp]

theorem issueCommand_next {pay : List Byte} {s t : State} {judge : State → Result State} :
    issueCommand pay s judge = .next t ↔
      payloadFits pay = true ∧ s.PHASE = .IDLE ∧ judge { s with RESP_VALID := false } = .next t := by
  unfold issueCommand
  split
  · rename_i hw
    split
    · rename_i hp
      simp [hw, hp]
    · rename_i hp
      simp [hp]
  · rename_i hw
    simp [hw]

/-- The three outcomes of a block command's checks (R157). -/
theorem checkBlock_cases (pay : List Byte) (s : State) (accept : State → State) :
    (s.KEY_VALID = false ∧ checkBlock pay s accept = .next (raise .NO_KEY s)) ∨
    (s.KEY_VALID = true ∧ pay.length ≠ 8 ∧ checkBlock pay s accept = .next (raise .INVALID_LENGTH s)) ∨
    (s.KEY_VALID = true ∧ pay.length = 8 ∧ checkBlock pay s accept = .next (accept s)) := by
  unfold checkBlock
  cases hk : s.KEY_VALID
  · exact .inl ⟨rfl, rfl⟩
  · by_cases h : pay.length = Config.BLOCK_BYTES
    · exact .inr (.inr ⟨rfl, h, if_pos h⟩)
    · exact .inr (.inl ⟨rfl, h, if_neg h⟩)

/-- LOADKEY in `IDLE` (R91, R96, R151). -/
theorem execLoadkey_next {pay : List Byte} {s t : State} :
    execLoadkey pay s = .next t ↔ payloadFits pay = true ∧ s.PHASE = .IDLE ∧
      t = if pay.length = 0 then raise .INVALID_KEY { s with RESP_VALID := false }
        else acceptLoadkey pay { s with RESP_VALID := false } := by
  unfold execLoadkey
  rw [issueCommand_next]
  by_cases hl : pay.length = 0
  · simp only [if_pos hl, Host.Outcome.next.injEq, eq_comm (b := t)]
  · simp only [if_neg hl, Host.Outcome.next.injEq, eq_comm (b := t)]

/-! ### `exec` -/

/-- Every well-formed command in `IDLE` answers a next state (R36). -/
theorem exec_idle_total {i : Instr} {s : State} (hw : i.wf = true) (hp : s.PHASE = .IDLE) :
    ∃ t, exec i s = .next t := by
  cases i with
  | loadkey pay => exact ⟨_, execLoadkey_next.2 ⟨hw, hp, rfl⟩⟩
  | encrypt pay =>
    simp only [exec, execEncrypt, issueCommand_idle _ hw hp]
    rcases checkBlock_cases pay { s with RESP_VALID := false } (acceptEncrypt pay) with h | h | h
    · exact ⟨_, h.2⟩
    · exact ⟨_, h.2.2⟩
    · exact ⟨_, h.2.2⟩
  | decrypt pay =>
    simp only [exec, execDecrypt, issueCommand_idle _ hw hp]
    rcases checkBlock_cases pay { s with RESP_VALID := false } (acceptDecrypt pay) with h | h | h
    · exact ⟨_, h.2⟩
    · exact ⟨_, h.2.2⟩
    · exact ⟨_, h.2.2⟩

/-- Everything a command can do when it answers a next state: one of the four errors' three, or acceptance
(R36, R155, R157). -/
theorem exec_cases {i : Instr} {s t : State} (h : exec i s = .next t) :
    i.wf = true ∧ s.PHASE = .IDLE ∧
    ((∃ x, t = failed x s.schedule s) ∨
     (∃ pay, i = .loadkey pay ∧ pay.length ≠ 0 ∧ t = acceptLoadkey pay { s with RESP_VALID := false }) ∨
     (∃ pay, i = .encrypt pay ∧ s.KEY_VALID = true ∧ pay.length = 8 ∧
        t = acceptEncrypt pay { s with RESP_VALID := false }) ∨
     (∃ pay, i = .decrypt pay ∧ s.KEY_VALID = true ∧ pay.length = 8 ∧
        t = acceptDecrypt pay { s with RESP_VALID := false })) := by
  cases i with
  | loadkey pay =>
    obtain ⟨hw, hp, ht⟩ := execLoadkey_next.1 h
    refine ⟨hw, hp, ?_⟩
    split at ht
    · exact .inl ⟨.INVALID_KEY, ht⟩
    · rename_i hl
      exact .inr (.inl ⟨pay, rfl, hl, ht⟩)
  | encrypt pay =>
    have h : execEncrypt pay s = .next t := h
    obtain ⟨hw, hp, hj⟩ := issueCommand_next.1 h
    refine ⟨hw, hp, ?_⟩
    rcases checkBlock_cases pay { s with RESP_VALID := false } (acceptEncrypt pay) with c | c | c
    · exact .inl ⟨.NO_KEY, (Host.Outcome.next.inj (c.2.symm.trans hj)).symm⟩
    · exact .inl ⟨.INVALID_LENGTH, (Host.Outcome.next.inj (c.2.2.symm.trans hj)).symm⟩
    · exact .inr (.inr (.inl ⟨pay, rfl, c.1, c.2.1, (Host.Outcome.next.inj (c.2.2.symm.trans hj)).symm⟩))
  | decrypt pay =>
    have h : execDecrypt pay s = .next t := h
    obtain ⟨hw, hp, hj⟩ := issueCommand_next.1 h
    refine ⟨hw, hp, ?_⟩
    rcases checkBlock_cases pay { s with RESP_VALID := false } (acceptDecrypt pay) with c | c | c
    · exact .inl ⟨.NO_KEY, (Host.Outcome.next.inj (c.2.symm.trans hj)).symm⟩
    · exact .inl ⟨.INVALID_LENGTH, (Host.Outcome.next.inj (c.2.2.symm.trans hj)).symm⟩
    · exact .inr (.inr (.inr ⟨pay, rfl, c.1, c.2.1, (Host.Outcome.next.inj (c.2.2.symm.trans hj)).symm⟩))

end Sys2Proof.Machine
end

