-- ==== Sys2Proof/Laws/PerInstr.lean ====
section
/-! SUPPORT. A family of statements with one lemma for every command: its frame's 16-bit header
`HDR = OPCODE || LEN` matches its own row of spec/opcode_table.json and no other (30_encoding.md R70, R72). -/

namespace Sys2Proof.Laws.HeaderMatchesOneRow

/-- The header of a frame: byte 0 is `HDR[15:8]`, byte 1 is `HDR[7:0]` (R70). -/
def header (op len : Byte) : BitVec 16 := op ++ len

/-- The rows a header matches. -/
def rowsOf (hdr : BitVec 16) : List String := (opcodeTable.filter fun r => r.matches hdr).map fun r => r.mnemonic

/-- The command's row (R72). -/
def rowName : Instr → String
  | .loadkey _ => "LOADKEY"
  | .encrypt _ => "ENCRYPT"
  | .decrypt _ => "DECRYPT"

/-- A well-formed command's frame is two header bytes and the payload; `LEN` counts the payload (R71), and the
header matches exactly the command's row. -/
def Statement (i : Instr) : Prop :=
  i.wf = true → ∃ len : Byte, encode i = i.opcode :: len :: i.pay ∧ len.toNat = i.len ∧
    rowsOf (header i.opcode len) = [rowName i]

theorem len_toNat {pay : List Byte} (h : payloadFits pay = true) : (BitVec.ofNat 8 pay.length).toNat = pay.length := by
  have h : pay.length ≤ 255 := of_decide_eq_true h
  rw [BitVec.toNat_ofNat, Nat.mod_eq_of_lt (by omega)]

theorem rows : ∀ len : Byte, rowsOf (header 0x01#8 len) = ["LOADKEY"] ∧ rowsOf (header 0x02#8 len) = ["ENCRYPT"] ∧
    rowsOf (header 0x03#8 len) = ["DECRYPT"] := by decide +kernel

theorem loadkey (pay : List Byte) : Statement (.loadkey pay) := fun h =>
  ⟨_, rfl, len_toNat h, (rows _).1⟩

theorem encrypt (pay : List Byte) : Statement (.encrypt pay) := fun h =>
  ⟨_, rfl, len_toNat h, (rows _).2.1⟩

theorem decrypt (pay : List Byte) : Statement (.decrypt pay) := fun h =>
  ⟨_, rfl, len_toNat h, (rows _).2.2⟩

end Sys2Proof.Laws.HeaderMatchesOneRow
end

