-- ==== Sys2Proof/Laws/Primitives.lean ====
section
/-! SUPPORT. The datapath primitives (43_primitives.md) and the byte order (20_memory.md R56) in the library's
terms. -/

namespace Sys2Proof.Machine

/-- The rotation by shifts is the bit vector rotation (R133). -/
theorem rotl_eq_rotateLeft (x : Word) (n : Nat) : rotl x n = x.rotateLeft n := by
  have hs : n % 32 < 32 := Nat.mod_lt _ (by decide)
  unfold rotl BitVec.rotateLeft BitVec.rotateLeftAux
  dsimp only
  split
  · rename_i h
    rw [h, Nat.sub_zero, BitVec.shiftLeft_zero, BitVec.ushiftRight_eq_zero (Nat.le_refl 32), BitVec.or_zero]
  · rename_i h
    apply BitVec.add_eq_or_of_and_eq_zero
    ext i hi
    rw [BitVec.getElem_and, BitVec.getElem_shiftLeft, BitVec.getElem_ushiftRight, BitVec.getElem_zero]
    by_cases hi' : i < n % 32
    · simp [hi']
    · rw [BitVec.getLsbD_of_ge _ _ (by omega), Bool.and_false]

/-- The same to the right (R134). -/
theorem rotr_eq_rotateRight (x : Word) (n : Nat) : rotr x n = x.rotateRight n := by
  have hs : n % 32 < 32 := Nat.mod_lt _ (by decide)
  unfold rotr BitVec.rotateRight BitVec.rotateRightAux
  dsimp only
  split
  · rename_i h
    rw [h, Nat.sub_zero, BitVec.ushiftRight_zero, BitVec.shiftLeft_eq_zero (Nat.le_refl 32), BitVec.or_zero]
  · rename_i h
    apply BitVec.add_eq_or_of_and_eq_zero
    ext i hi
    rw [BitVec.getElem_and, BitVec.getElem_shiftLeft, BitVec.getElem_ushiftRight, BitVec.getElem_zero]
    by_cases hi' : i < 32 - n % 32
    · simp [hi']
    · rw [BitVec.getLsbD_of_ge _ _ (by omega), Bool.false_and]

theorem add32_toNat (x y : Word) : (add32 x y).toNat = (x.toNat + y.toNat) % 2 ^ 32 := BitVec.toNat_add x y

/-- No wrap in `LE32` (R56). -/
theorem le32_toNat (b0 b1 b2 b3 : Byte) :
    (le32 b0 b1 b2 b3).toNat = b0.toNat + 2 ^ 8 * b1.toNat + 2 ^ 16 * b2.toNat + 2 ^ 24 * b3.toNat := by
  have := b0.isLt
  have := b1.isLt
  have := b2.isLt
  have := b3.isLt
  unfold le32
  rw [BitVec.toNat_ofNat]
  omega

@[simp] theorem blockBytes_length (a b : Word) : (blockBytes a b).length = 8 := rfl

end Sys2Proof.Machine
end

