-- ==== Sys2Proof/Laws/Step.lean ====
section
/-! SUPPORT. What each micro-step and each turn can do, said once: the cases in which it answers a next state,
and that state. -/

namespace Sys2Proof.Machine

/-- `K_PACK` (R97). -/
theorem kPack_next {s t : State} :
    kPack s = .next t ↔ s.CNT ≠ 0 ∧ s.CNT.toNat - 1 < s.KLEN.toNat ∧ (s.CNT.toNat - 1) / 4 < s.C.toNat ∧
      ∃ byte word,
      Memory.read s.KEYBUF (s.CNT.toNat - 1) = some byte ∧
      Memory.read s.L ((s.CNT.toNat - 1) / 4) = some word ∧
      t = if s.CNT - 1 = 0 then
          { s with L := Memory.write s.L ((s.CNT.toNat - 1) / 4) (packByte word byte), CNT := s.CNT - 1
                   PHASE := .K_INIT, SI := 0 }
        else { s with L := Memory.write s.L ((s.CNT.toNat - 1) / 4) (packByte word byte), CNT := s.CNT - 1 } := by
  have hc : s.CNT.toNat - 1 < 255 := by have := s.CNT.isLt; omega
  have hq : (s.CNT.toNat - 1) / 4 < 64 := by omega
  unfold kPack
  by_cases h0 : s.CNT = 0
  · simp [h0]
  · rw [if_neg h0]
    simp only [andThen_next, readLive_next, writeAt_next, size_KEYBUF, size_L, hc, hq, true_and,
      Host.Outcome.next.injEq]
    constructor
    · rintro ⟨byte, ⟨hk, hb⟩, word, ⟨hl, hw⟩, _, rfl, rfl⟩
      exact ⟨h0, hk, hl, byte, word, hb, hw, rfl⟩
    · rintro ⟨_, hk, hl, byte, word, hb, hw, rfl⟩
      exact ⟨byte, ⟨hk, hb⟩, word, ⟨hl, hw⟩, _, rfl, rfl⟩

theorem initValue_next {s : State} {k : Nat} {w : Word} (hk : k ≤ 26) :
    initValue s k = .next w ↔ (k = 0 ∧ w = Config.P32) ∨
      (k ≠ 0 ∧ ∃ v, Memory.read s.S (k - 1) = some v ∧ w = add32 v Config.Q32) := by
  unfold initValue
  split
  · rename_i h
    simp [h, eq_comm]
  · rename_i h
    have : k - 1 < 26 := by omega
    simp only [andThen_next, readAt_next, size_S, this, true_and, Host.Outcome.next.injEq, h, false_and, false_or,
      ne_eq, not_false_eq_true]
    constructor <;> rintro ⟨v, hv, e⟩ <;> exact ⟨v, hv, e.symm⟩

/-- `K_INIT` (R98). -/
theorem kInit_next {s t : State} :
    kInit s = .next t ↔ s.SI.toNat < 26 ∧ ∃ w,
      ((s.SI.toNat = 0 ∧ w = Config.P32) ∨
        (s.SI.toNat ≠ 0 ∧ ∃ v, Memory.read s.S (s.SI.toNat - 1) = some v ∧ w = add32 v Config.Q32)) ∧
      t = if s.SI.toNat = 25 then
          { s with S := Memory.write s.S s.SI.toNat w, PHASE := .K_MIX, SI := 0, LJ := 0, A := 0, B := 0
                   CNT := BitVec.ofNat 8 (Config.MIXN s.C.toNat) }
        else { s with S := Memory.write s.S s.SI.toNat w, SI := s.SI + 1 } := by
  unfold kInit
  simp only [andThen_next, writeAt_next, size_S, Host.Outcome.next.injEq]
  constructor
  · rintro ⟨w, hw, _, ⟨hs, rfl⟩, rfl⟩
    exact ⟨hs, w, (initValue_next (by omega)).1 hw, rfl⟩
  · rintro ⟨hs, w, hw, rfl⟩
    exact ⟨w, (initValue_next (by omega)).2 hw, _, ⟨hs, rfl⟩, rfl⟩

/-- `K_MIX` (R99, R100). -/
theorem kMix_next {s t : State} :
    kMix s = .next t ↔ s.CNT ≠ 0 ∧ s.LJ.toNat < s.C.toNat ∧ s.SI.toNat < 26 ∧ ∃ sv lv a b,
      Memory.read s.S s.SI.toNat = some sv ∧ Memory.read s.L s.LJ.toNat = some lv ∧
      a = rotl (add32 (add32 sv s.A) s.B) 3 ∧
      b = rotl (add32 (add32 lv a) s.B) (add32 a s.B).toNat ∧
      t = if s.CNT - 1 = 0 then
          completeKey { s with
            S := Memory.write s.S s.SI.toNat a, L := Memory.write s.L s.LJ.toNat b, A := a, B := b
            SI := BitVec.ofNat 5 ((s.SI.toNat + 1) % 26)
            LJ := BitVec.ofNat 6 ((s.LJ.toNat + 1) % s.C.toNat), CNT := s.CNT - 1 }
        else { s with
            S := Memory.write s.S s.SI.toNat a, L := Memory.write s.L s.LJ.toNat b, A := a, B := b
            SI := BitVec.ofNat 5 ((s.SI.toNat + 1) % 26)
            LJ := BitVec.ofNat 6 ((s.LJ.toNat + 1) % s.C.toNat), CNT := s.CNT - 1 } := by
  have hl : s.LJ.toNat < 64 := s.LJ.isLt
  unfold kMix
  by_cases h0 : s.CNT = 0
  · simp [h0]
  · rw [if_neg h0]
    simp only [andThen_next, readAt_next, readLive_next, writeAt_next, size_S, size_L, hl, true_and,
      Host.Outcome.next.injEq, T_eq]
    constructor
    · rintro ⟨sv, ⟨hs, h1⟩, lv, ⟨hc, h2⟩, _, ⟨_, rfl⟩, _, rfl, rfl⟩
      exact ⟨h0, hc, hs, sv, lv, _, _, h1, h2, rfl, rfl, rfl⟩
    · rintro ⟨_, hc, hs, sv, lv, _, _, h1, h2, rfl, rfl, rfl⟩
      exact ⟨sv, ⟨hs, h1⟩, lv, ⟨hc, h2⟩, _, ⟨hs, rfl⟩, _, rfl, rfl⟩

/-- `ENC` (R114, R115). -/
theorem encStep_next {s t : State} :
    encStep s = .next t ↔ s.SI.toNat < 26 ∧ ∃ sk, Memory.read s.S s.SI.toNat = some sk ∧
      t = if s.SI.toNat = 25 then completeBlock (encHalfRound s.SI.toNat sk s)
        else { (if s.SI.toNat < 2 then encWhiten s.SI.toNat sk s else encHalfRound s.SI.toNat sk s) with
          SI := s.SI + 1 } := by
  unfold encStep
  simp only [andThen_next, readAt_next, size_S, Host.Outcome.next.injEq, T_eq]
  constructor
  · rintro ⟨sk, ⟨hs, h1⟩, rfl⟩
    refine ⟨hs, sk, h1, ?_⟩
    by_cases h : s.SI.toNat = 25
    · simp [h]
    · simp [h]
  · rintro ⟨hs, sk, h1, rfl⟩
    refine ⟨sk, ⟨hs, h1⟩, ?_⟩
    by_cases h : s.SI.toNat = 25
    · simp [h]
    · simp [h]

/-- `DEC` (R124, R125). -/
theorem decStep_next {s t : State} :
    decStep s = .next t ↔ s.SI.toNat < 26 ∧ ∃ sk, Memory.read s.S s.SI.toNat = some sk ∧
      t = if s.SI.toNat = 0 then completeBlock (decUnwhiten s.SI.toNat sk s)
        else { (if s.SI.toNat < 2 then decUnwhiten s.SI.toNat sk s else decHalfRound s.SI.toNat sk s) with
          SI := s.SI - 1 } := by
  unfold decStep
  simp only [andThen_next, readAt_next, size_S, Host.Outcome.next.injEq]
  constructor
  · rintro ⟨sk, ⟨hs, h1⟩, rfl⟩
    refine ⟨hs, sk, h1, ?_⟩
    by_cases h : s.SI.toNat = 0
    · simp [h]
    · simp [h]
  · rintro ⟨hs, sk, h1, rfl⟩
    refine ⟨sk, ⟨hs, h1⟩, ?_⟩
    by_cases h : s.SI.toNat = 0
    · simp [h]
    · simp [h]

/-- No micro-step touches what the agents will do or were told (R20). -/
theorem micro_keeps_agents {s t : State} (h : micro s = .next t) :
    t.schedule = s.schedule ∧ t.replies = s.replies := by
  cases hp : s.PHASE <;> simp only [micro, hp] at h
  · cases h
    exact ⟨rfl, rfl⟩
  · obtain ⟨_, _, _, _, _, _, _, rfl⟩ := kPack_next.1 h
    split <;> exact ⟨rfl, rfl⟩
  · obtain ⟨_, _, _, rfl⟩ := kInit_next.1 h
    split <;> exact ⟨rfl, rfl⟩
  · obtain ⟨_, _, _, _, _, _, _, _, _, _, _, rfl⟩ := kMix_next.1 h
    split <;> exact ⟨rfl, rfl⟩
  · obtain ⟨_, _, _, rfl⟩ := encStep_next.1 h
    simp only [completeBlock, respondOk, encWhiten, encHalfRound]
    repeat' split
    all_goals exact ⟨rfl, rfl⟩
  · obtain ⟨_, _, _, rfl⟩ := decStep_next.1 h
    simp only [completeBlock, respondOk, decUnwhiten, decHalfRound]
    repeat' split
    all_goals exact ⟨rfl, rfl⟩

/-- A frame the decoder reads carries a payload that fits. -/
theorem decode_fits {bytes rest pay : List Byte} {op : Byte}
    (h : decode bytes = .reserved op pay rest ∨ ∃ i : Instr, i.pay = pay ∧ decode bytes = .command i rest) :
    pay.length ≤ 255 := by
  match bytes, h with
  | [], h => simp [decode] at h
  | [_], h => simp [decode] at h
  | o :: len :: more, h =>
    have hl := len.isLt
    simp only [decode] at h
    split at h
    · unfold decodeFrame at h
      split at h
      · rcases h with h | ⟨i, hp, h⟩
        · cases h
        · cases h; subst hp; simp only [Instr.pay, List.length_take]; omega
      · split at h
        · rcases h with h | ⟨i, hp, h⟩
          · cases h
          · cases h; subst hp; simp only [Instr.pay, List.length_take]; omega
        · split at h
          · rcases h with h | ⟨i, hp, h⟩
            · cases h
            · cases h; subst hp; simp only [Instr.pay, List.length_take]; omega
          · rcases h with h | ⟨i, hp, h⟩
            · cases h; simp only [List.length_take]; omega
            · cases h
    · rcases h with h | ⟨i, hp, h⟩
      · cases h
      · cases h

/-- Every command the decoder reads is well-formed. -/
theorem decode_wf {bytes rest : List Byte} {i : Instr} (h : decode bytes = .command i rest) : i.wf = true := by
  have : i.pay.length ≤ 255 := decode_fits (op := 0) (.inr ⟨i, rfl, h⟩)
  cases i <;> exact (payloadFits_iff _).2 this

/-- Issue in `IDLE`: the command's own step, a reserved opcode's error, or nothing (R36, R74, R189). -/
theorem issueBytes_next {bytes : List Byte} {later : List Turn} {s t : State} (hp : s.PHASE = .IDLE) :
    issueBytes bytes later s = .next t ↔
      (∃ i rest, decode bytes = .command i rest ∧ exec i { s with schedule := sendRest rest later } = .next t) ∨
      (∃ op pay rest, decode bytes = .reserved op pay rest ∧
        t = failed .ILLEGAL_COMMAND (sendRest rest later) s) ∨
      (decode bytes = .incomplete ∧ t = { s with schedule := later }) := by
  unfold issueBytes
  cases hd : decode bytes with
  | command i rest =>
    constructor
    · intro ht; exact .inl ⟨i, rest, rfl, ht⟩
    · rintro (⟨i', rest', h', ht⟩ | ⟨_, _, _, h', _⟩ | ⟨h', _⟩)
      · cases h'; exact ht
      · cases h'
      · cases h'
  | reserved op pay rest =>
    have hw : payloadFits pay = true := (payloadFits_iff _).2 (decode_fits (.inl hd))
    simp only [issueCommand_idle (s := { s with schedule := sendRest rest later }) _ hw hp]
    constructor
    · intro ht; exact .inr (.inl ⟨op, pay, rest, rfl, (Host.Outcome.next.inj ht).symm⟩)
    · rintro (⟨i', rest', h', ht⟩ | ⟨_, _, _, h', ht⟩ | ⟨h', _⟩)
      · cases h'
      · cases h'; rw [ht]; rfl
      · cases h'
  | incomplete =>
    constructor
    · intro ht; exact .inr (.inr ⟨rfl, (Host.Outcome.next.inj ht).symm⟩)
    · rintro (⟨i', rest', h', ht⟩ | ⟨_, _, _, h', ht⟩ | ⟨_, ht⟩)
      · cases h'
      · cases h'
      · rw [ht]

/-- Everything one step can do (R16, R36, R37, R41, R42, R180): the engine moves, a frame is issued in
`IDLE`, the host is given something, or reset. -/
theorem step_cases {s t : State} (h : step s = .next t) :
    (∃ sched, micro { s with schedule := sched } = .next t) ∨
    (∃ bytes later, s.schedule = .issue bytes :: later ∧ s.PHASE = .IDLE ∧ issueBytes bytes later s = .next t) ∨
    (∃ later r, t = { s with schedule := later, replies := s.replies ++ [r] }) ∨
    (∃ later, s.schedule = .reset :: later ∧ t = resetEngine { s with schedule := later }) := by
  have hs : s = { s with schedule := s.schedule } := rfl
  unfold step takeTurn at h
  split at h
  · exact .inl ⟨s.schedule, h⟩
  · exact .inl ⟨_, h⟩
  · rename_i bytes later hsch
    split at h
    · rename_i hp
      exact .inr (.inl ⟨bytes, later, hsch, hp, h⟩)
    · exact .inl ⟨s.schedule, h⟩
  · rename_i later hsch
    split at h
    · obtain ⟨bs, _, ht⟩ := andThen_next.1 h
      exact .inr (.inr (.inl ⟨later, _, (Host.Outcome.next.inj ht).symm⟩))
    · split at h
      · cases h
      · exact .inl ⟨s.schedule, h⟩
  · rename_i later hsch
    exact .inr (.inr (.inl ⟨later, _, (Host.Outcome.next.inj h).symm⟩))
  · rename_i later hsch
    exact .inr (.inr (.inr ⟨later, hsch, (Host.Outcome.next.inj h).symm⟩))

end Sys2Proof.Machine
end

