-- ==== Sys2Proof/Laws/Tables.lean ====
section
/-! SUPPORT. Full tables, agreeing tables and the words of a table, under writes. -/

namespace Sys2Proof.Machine

variable {α : Type}

/-- A write keeps what is full full. -/
theorem Memory.full_write {n : Nat} {m : Memory α} (i : Nat) (v : α) (h : Memory.full n m) :
    Memory.full n (Memory.write m i v) := by
  intro k hk
  rw [Memory.read_write]
  split
  · rfl
  · exact h k hk

/-- Filling the next element. -/
theorem Memory.full_write_succ {n : Nat} {m : Memory α} (v : α) (h : Memory.full n m) :
    Memory.full (n + 1) (Memory.write m n v) := by
  intro k hk
  rw [Memory.read_write]
  split
  · rfl
  · exact h k (by omega)

/-- Writing a list from index 0 fills as many elements. -/
theorem Memory.full_writeList (m : Memory α) (vs : List α) : Memory.full vs.length (Memory.writeList m 0 vs) := by
  intro k hk
  rw [Memory.read_writeList, if_pos (by omega), Nat.sub_zero, List.getElem?_eq_getElem hk]
  rfl

/-- The same write on both sides keeps agreement. -/
theorem Memory.agree_write {n : Nat} {m m' : Memory α} (i : Nat) (v : α) (h : Memory.agree n m m') :
    Memory.agree n (Memory.write m i v) (Memory.write m' i v) := by
  intro k hk
  rw [Memory.read_write, Memory.read_write, h k hk]

/-- Writing the next element on both sides extends agreement. -/
theorem Memory.agree_write_succ {n : Nat} {m m' : Memory α} (v : α) (h : Memory.agree n m m') :
    Memory.agree (n + 1) (Memory.write m n v) (Memory.write m' n v) := by
  intro k hk
  rw [Memory.read_write, Memory.read_write]
  split
  · rfl
  · exact h k (by omega)

/-- After writing one list to both from index 0, they agree on it. -/
theorem Memory.agree_writeList (m m' : Memory α) (vs : List α) :
    Memory.agree vs.length (Memory.writeList m 0 vs) (Memory.writeList m' 0 vs) := by
  intro k hk
  rw [Memory.read_writeList, Memory.read_writeList, if_pos (by omega), if_pos (by omega)]

@[simp] theorem tableWords_length (m : Memory Word) (n : Nat) : (tableWords m n).length = n := by
  simp [tableWords]

theorem tableWords_getElem? (m : Memory Word) {n i : Nat} (h : i < n) :
    (tableWords m n)[i]? = some ((Memory.read m i).getD 0) := by
  simp [tableWords, h]

theorem tableWords_getD (m : Memory Word) {n i : Nat} (h : i < n) :
    (tableWords m n).getD i 0 = (Memory.read m i).getD 0 := by
  rw [List.getD_eq_getElem?_getD, tableWords_getElem? m h]
  rfl

/-- The words after a write. -/
theorem tableWords_write (m : Memory Word) (n i : Nat) (v : Word) :
    tableWords (Memory.write m i v) n = (tableWords m n).set i v := by
  apply List.ext_getElem?
  intro k
  by_cases hk : k < n
  · rw [tableWords_getElem? _ hk, Memory.read_write]
    by_cases hi : k = i
    · subst hi
      simp [hk]
    · rw [if_neg hi, List.getElem?_set_ne (Ne.symm hi), tableWords_getElem? _ hk]
  · rw [List.getElem?_eq_none (by simpa using hk), List.getElem?_eq_none (by simpa using hk)]

/-- One word more. -/
theorem tableWords_succ (m : Memory Word) (n : Nat) :
    tableWords m (n + 1) = tableWords m n ++ [(Memory.read m n).getD 0] := by
  simp [tableWords, List.range_succ]

/-- The words of a table that reads as the list `S`. -/
theorem tableWords_eq_of_read {m : Memory Word} {S : List Word}
    (h : ∀ i, i < S.length → Memory.read m i = S[i]?) : tableWords m S.length = S := by
  apply List.ext_getElem?
  intro k
  by_cases hk : k < S.length
  · rw [tableWords_getElem? _ hk, h k hk, List.getElem?_eq_getElem hk]
    rfl
  · rw [List.getElem?_eq_none (by simpa using hk), List.getElem?_eq_none (by simpa using hk)]

@[simp] theorem keyBytes_length (s : State) : (keyBytes s).length = s.KLEN.toNat := by
  simp [keyBytes]

theorem byteAt_keyBytes {s : State} {k : Nat} (h : k < s.KLEN.toNat) :
    byteAt (keyBytes s) k = (Memory.read s.KEYBUF k).getD 0 := by
  simp [byteAt, keyBytes, List.getD_eq_getElem?_getD, h]

/-- The key bytes depend on `KLEN` and `KEYBUF` alone. -/
theorem keyBytes_congr {s t : State} (hl : t.KLEN = s.KLEN) (hb : t.KEYBUF = s.KEYBUF) : keyBytes t = keyBytes s := by
  unfold keyBytes
  rw [hl, hb]

end Sys2Proof.Machine
end

