-- ==== Sys2Proof/Laws/Run.lean ====
section
/-! SUPPORT. Micro-steps in a row (70_reset_and_hazards.md R191). -/

namespace Sys2Proof.Machine

theorem micro_of_idle {s : State} (h : s.PHASE = .IDLE) : micro s = .next s := by
  simp only [micro, h]

theorem microRun_add (m n : Nat) (s : State) : microRun (m + n) s = andThen (microRun m s) (microRun n) := by
  induction m generalizing s with
  | zero => simp [microRun]
  | succ m ih =>
    rw [Nat.succ_add, microRun, microRun, andThen_assoc]
    congr 1
    funext t
    exact ih t

theorem microRun_trans {m n : Nat} {s t u : State} (h : microRun m s = .next t) (h' : microRun n t = .next u) :
    microRun (m + n) s = .next u := by
  rw [microRun_add, h, andThen_of_next, h']

/-- With no turn of another agent to come, steps of the machine are micro-steps (R37), so what is proved of
`microRun` holds of the machine's run. -/
theorem run_eq_microRun (n : Nat) {s : State} (h : s.schedule = []) :
    Host.Core.run Sys2Proof.core n s = microRun n s := by
  induction n generalizing s with
  | zero => rfl
  | succ n ih =>
    have e : Sys2Proof.core.step s = micro s := by
      show takeTurn s = micro s
      simp only [takeTurn, h]
    simp only [Host.Core.run, microRun, e]
    cases hm : micro s with
    | next t => exact ih ((micro_keeps_agents hm).1.trans h)
    | fault _ => rfl
    | refused _ => rfl

/-- A command that needs no micro-step. -/
theorem completesIn_zero {s : State} (h : s.PHASE = .IDLE) : CompletesIn 0 s s :=
  ⟨rfl, h, fun _ hk => absurd hk (Nat.not_lt_zero _)⟩

/-- One micro-step of a busy engine, then the rest. -/
theorem completesIn_succ {n : Nat} {s t u : State} (hp : s.PHASE ≠ .IDLE) (hs : micro s = .next t)
    (h : CompletesIn n t u) : CompletesIn (n + 1) s u := by
  obtain ⟨hr, hu, hb⟩ := h
  refine ⟨?_, hu, ?_⟩
  · rw [microRun, hs, andThen_of_next, hr]
  · intro k hk
    cases k with
    | zero => exact ⟨s, rfl, hp⟩
    | succ k =>
      obtain ⟨v, hv, hvp⟩ := hb k (by omega)
      exact ⟨v, by rw [microRun, hs, andThen_of_next, hv], hvp⟩

end Sys2Proof.Machine
end

