-- ==== Sys2Proof/Tests/Slice0.lean ====
section
/-! SUPPORT. The model's own tests. Every expected value is the spec's (95_test_vectors.md, 30_encoding.md R81) or
counted by hand from a rule; and for each statement of the provers that has hypotheses, a concrete state and
operands that meet them (`witness_…`). -/

namespace Sys2Proof.Tests

open Sys2Proof Sys2Proof.Machine

/-! ### Helpers -/

/-- Table elements `0 .. n-1`, all `v`. -/
def filled {α : Type} (n : Nat) (v : α) : Memory α := (List.range n).map fun i => (i, v)

/-- An idle engine with a (zero) subkey table. -/
def keyed : State := { State.reset with S := filled 26 0, KEY_VALID := true }

/-- The same with an answered block in `DOUT`. -/
def answered : State := { keyed with RESP_VALID := true, RESP_LEN := 8, DOUT := filled 8 0xAA }

/-- In the middle of a LOADKEY of `01 02 03 04 05`, with `n` key bytes not yet packed. -/
def packing (n : BitVec 8) : State :=
  { State.reset with PHASE := .K_PACK, KLEN := 5, C := 2, CNT := n, L := filled 2 0
                     KEYBUF := [(0, 1), (1, 2), (2, 3), (3, 4), (4, 5)] }

/-- In `K_INIT` with `k` words written. -/
def filling (k : Nat) : State :=
  { packing 0 with PHASE := .K_INIT, SI := BitVec.ofNat 5 k, S := filled k 0 }

/-- In `K_MIX` with `n` of the 78 iterations to do. -/
def mixing (n : Nat) : State :=
  { packing 0 with PHASE := .K_MIX, CNT := BitVec.ofNat 8 n, SI := BitVec.ofNat 5 ((78 - n) % 26)
                   LJ := BitVec.ofNat 6 ((78 - n) % 2), S := filled 26 0 }

/-- At index `k` of an encryption. -/
def encrypting (k : BitVec 5) : State := { keyed with PHASE := .ENC, SI := k }

/-- At index `k` of a decryption. -/
def decrypting (k : BitVec 5) : State := { keyed with PHASE := .DEC, SI := k }

/-- The state with turns to come. -/
def withTurns (s : State) (turns : List Turn) : State := { s with schedule := turns }

/-- The next state's `f`, if there is a next state. -/
def after {β : Type} (r : Result State) (f : State → β) : Option β :=
  match r with
  | .next t => some (f t)
  | .fault _ => none
  | .refused _ => none

def zeros (n : Nat) : List Byte := List.replicate n 0

theorem zeros_length (n : Nat) : (zeros n).length = n := List.length_replicate

/-! ### WellFormed refuses a payload of 256 bytes (30_encoding.md R71), for every command -/

theorem fits_zeros (n : Nat) : payloadFits (zeros n) = decide (n ≤ 255) := by simp [payloadFits, zeros]

theorem test_loadkey_256_ill_formed : (Instr.loadkey (zeros 256)).wf = false := (fits_zeros 256).trans (by decide)
theorem test_encrypt_256_ill_formed : (Instr.encrypt (zeros 256)).wf = false := (fits_zeros 256).trans (by decide)
theorem test_decrypt_256_ill_formed : (Instr.decrypt (zeros 256)).wf = false := (fits_zeros 256).trans (by decide)
theorem test_loadkey_255_well_formed : (Instr.loadkey (zeros 255)).wf = true := (fits_zeros 255).trans (by decide)

/-! ### Decoding (30_encoding.md R70, R72, R81) -/

/-- `LOADKEY 0102030405`: `01 05 01 02 03 04 05`. -/
theorem test_decode_loadkey :
    decode [0b00000001, 0b00000101, 1, 2, 3, 4, 5] = .command (.loadkey [1, 2, 3, 4, 5]) [] := by decide

/-- `ENCRYPT` with 7 bytes is still ENCRYPT; what follows it stays. -/
theorem test_decode_encrypt :
    decode [0b00000010, 0b00000111, 0, 0, 0, 0, 0, 0, 0, 0x03] = .command (.encrypt [0, 0, 0, 0, 0, 0, 0]) [3] := by
  decide

theorem test_decode_decrypt :
    decode [0b00000011, 0b00001000, 0x21, 0xA5, 0xDB, 0xEE, 0x15, 0x4B, 0x8F, 0x6D] =
      .command (.decrypt [0x21, 0xA5, 0xDB, 0xEE, 0x15, 0x4B, 0x8F, 0x6D]) [] := by decide

/-- X7 and X8: reserved frames. -/
theorem test_decode_reserved :
    decode [0x7F, 0x02, 0xAA, 0xBB] = .reserved 0x7F [0xAA, 0xBB] [] ∧ decode [0, 0] = .reserved 0 [] [] := by decide

theorem test_decode_incomplete : decode [1, 2, 0xAA] = .incomplete ∧ decode [1] = .incomplete := by decide

/-- No header matches two rows of the table. -/
theorem test_rows_disjoint :
    opcodeTable.Pairwise fun r q => r.pattern &&& q.mask ≠ q.pattern &&& r.mask := by decide

/-- The table's words, fetched as the first step after reset, run as their command. -/
theorem test_fetch_loadkey : after (step (State.reset.withFetchWord 16 0x0110)) (fun t => (t.PHASE, t.KLEN)) =
    some (.K_PACK, 16) := by decide
theorem test_fetch_encrypt : after (step (State.reset.withFetchWord 16 0x0208)) (fun t => (t.PHASE, t.RESP_STATUS)) =
    some (.IDLE, .NO_KEY) := by decide
theorem test_fetch_decrypt : after (step (State.reset.withFetchWord 16 0x0308)) (fun t => (t.PHASE, t.RESP_STATUS)) =
    some (.IDLE, .NO_KEY) := by decide

/-! ### Primitives and operation level (vectors P1, P2, P3v, K1, K2, K3, K4, S1, D1, E2, K10) -/

theorem test_rotate : rotl 0xB7E15163 0xFFFFFFE0 = 0xB7E15163 ∧ rotl 0xB7E15163 3 = 0xBF0A8B1D ∧
    rotr 0xB7E15163 35 = 0x76FC2A2C ∧ rotl 0x818C2F33 0x1A37F7FB = 0x9C0C6179 := by decide

theorem test_add_sub_xor : add32 0xB7E15163 0x9E3779B9 = 0x5618CB1C ∧ sub32 0 0x1A37F7FB = 0xE5C80805 ∧
    xor32 0xB7E15163 0x9E3779B9 = 0x29D628DA := by decide

theorem test_little_endian : le32 0x01 0x23 0x45 0x67 = 0x67452301 ∧ unle32 0x6D8F4B15 = [0x15, 0x4B, 0x8F, 0x6D] := by
  decide

theorem test_init_last : (initTable 26)[25]? = some 0x2B4C3474 := by decide

theorem test_pack : pack [1, 2, 3, 4, 5] = [0x04030201, 0x00000005] := by decide

/-- K3 and K4: sixteen zero bytes and one zero byte are different keys. -/
theorem test_expand :
    (subkey (expand 12 (zeros 16)) 0, subkey (expand 12 (zeros 16)) 25) = (0x9BBBD8C8, 0x65046380) ∧
    subkey (expand 12 [0]) 0 = 0xC998E804 := by decide +kernel

/-- S1, the source's own vector, and D1, its inverse; K10, no rounds at all. -/
theorem test_known_answer :
    encBlock 12 (expand 12 (zeros 16)) (zeros 8) = [0x21, 0xA5, 0xDB, 0xEE, 0x15, 0x4B, 0x8F, 0x6D] ∧
    decBlock 12 (expand 12 (zeros 16)) [0x21, 0xA5, 0xDB, 0xEE, 0x15, 0x4B, 0x8F, 0x6D] = zeros 8 ∧
    encBlock 0 (expand 0 (zeros 16)) (zeros 8) = [0x4D, 0xE9, 0xA2, 0xD0, 0xE0, 0x31, 0xAC, 0x95] := by decide +kernel

/-! ### One step each -/

/-- K2's trace: the first packing step puts byte 4 into `L[1]`. -/
theorem test_pack_step : after (micro (packing 5)) (fun t => (t.L, t.CNT, t.PHASE)) =
    some ([(0, 0), (1, 5)], 4, .K_PACK) := by decide

/-- R141: a sixth key byte of a five-byte key, and a second key word where `C = 1`. -/
theorem test_pack_out_of_range :
    micro (packing 6) = .fault (.indexOutOfRange .KEYBUF 5) ∧
    micro { packing 5 with C := 1 } = .fault (.indexOutOfRange .L 1) := ⟨rfl, rfl⟩

theorem test_init_step : after (micro (filling 0)) (fun t => (t.S, t.SI)) = some ([(0, 0xB7E15163)], 1) := by
  decide

/-- The last mixing iteration with a zero table: R99 and R100. -/
theorem test_mix_step_completes : after (micro (mixing 1)) (fun t => (t.PHASE, t.KEY_VALID, t.SI, t.LJ, t.RESP_LEN)) =
    some (.IDLE, true, 0, 0, 0) := by decide

/-- PR4's trace: `SI = 2`, key K6: `A = 22260850` from `A = FE901C32`, `B = 89FA5C4D`, `S[2] = DA161963`. -/
theorem test_encrypt_half_round :
    after (micro { encrypting 2 with A := 0xFE901C32, B := 0x89FA5C4D, S := Memory.write (filled 26 0) 2 0xDA161963 })
      (fun t => (t.A, t.B, t.SI)) = some (0x22260850, 0x89FA5C4D, 3) := by decide

/-- R129: undoing `k = 25` of S1. -/
theorem test_decrypt_half_round :
    after (micro { decrypting 25 with A := 0xEEDBA521, B := 0x6D8F4B15
                                      S := Memory.write (filled 26 0) 25 0x65046380 })
      (fun t => (t.A, t.B, t.SI)) = some (0xEEDBA521, 0x6A9ED6EB, 24) := by decide

/-- X1: an empty key, with an old key loaded. -/
theorem test_loadkey_empty :
    after (exec (.loadkey []) keyed) (fun t => (t.RESP_STATUS, t.RESP_LEN, t.KEY_VALID, t.S)) =
      some (.INVALID_KEY, 0, true, filled 26 0) := by decide

/-- E5's input words. -/
theorem test_encrypt_accepts :
    after (exec (.encrypt [0x01, 0x23, 0x45, 0x67, 0x89, 0xAB, 0xCD, 0xEF]) keyed) (fun t => (t.A, t.B, t.SI, t.PHASE)) =
      some (0x67452301, 0xEFCDAB89, 0, .ENC) := by decide

/-- X3: nine bytes. -/
theorem test_decrypt_nine : after (exec (.decrypt (zeros 9)) keyed) (fun t => (t.RESP_STATUS, t.PHASE)) =
    some (.INVALID_LENGTH, .IDLE) := by decide

/-- X6: `NO_KEY` before `INVALID_LENGTH`. -/
theorem test_encrypt_seven_no_key : after (exec (.encrypt (zeros 7)) State.reset) (fun t => t.RESP_STATUS) =
    some .NO_KEY := by decide

/-- X7's response bytes. -/
theorem test_illegal_response :
    after (Host.Core.run Sys2Proof.core 2 (start [.issue [0x7F, 2, 0xAA, 0xBB], .readResp])) (fun t => t.replies) =
      some [.response [4, 0]] := by decide

/-! ### The invariants hold in the helper states -/

theorem inv_keyed : Inv keyed := by
  constructor <;> simp [keyed, State.reset, Phase.expanding, Phase.onBlock]
  · exact ⟨by decide, by decide, by decide, by decide⟩
  · decide

theorem inv_answered : Inv answered := by
  constructor <;> simp [answered, keyed, State.reset, Phase.expanding, Phase.onBlock]
  · exact ⟨by decide, by decide, by decide, by decide⟩
  · decide
  · decide

theorem inv_packing : Inv (packing 5) := by
  constructor <;> simp [packing, State.reset, Phase.expanding, Phase.onBlock]
  · exact ⟨by decide, by decide, by decide, by decide⟩
  · exact ⟨rfl, by decide, by decide⟩

theorem inv_encrypting : Inv (encrypting 25) := by
  constructor <;> simp [encrypting, keyed, State.reset, Phase.expanding, Phase.onBlock]
  · exact ⟨by decide, by decide, by decide, by decide⟩
  · decide

theorem safe_packing : Safe (packing 5) :=
  ⟨inv_packing, by constructor <;> simp [packing, State.reset]; decide⟩

/-! ### Witnesses: every statement's hypotheses are met, each clause at its boundary values -/

theorem witness_FrameDecodesByOpcode :
    ([] : List Byte).length = (0#8).toNat ∧ (zeros 255).length = (255#8).toNat ∧
    (Instr.loadkey (zeros 255)).wf = true ∧ (Instr.encrypt []).wf = true :=
  ⟨rfl, List.length_replicate, (fits_zeros 255).trans (by decide), rfl⟩

theorem witness_StepRunsDecodedCommand :
    (Instr.decrypt (zeros 8)).wf = true ∧ (withTurns keyed [.issue (encode (.decrypt (zeros 8))), .readResp]).PHASE = .IDLE ∧
    (withTurns keyed [.issue (encode (.decrypt (zeros 8))), .readResp]).schedule =
      .issue (encode (.decrypt (zeros 8))) :: [.readResp] := ⟨rfl, rfl, rfl⟩

theorem witness_PlacedWordRuns :
    decodeTableWord 16 0x0100 = some (.loadkey []) ∧ decodeTableWord 16 0x0208 = some (.encrypt (zeros 8)) ∧
    decodeTableWord 16 0x0301 = some (.decrypt [0]) := by decide

theorem witness_ReservedFrameAnswersIllegalCommand :
    (0x00#8 ≠ 0x01#8 ∧ 0x00#8 ≠ 0x02#8 ∧ 0x00#8 ≠ 0x03#8) ∧ (0x04#8 ≠ 0x01#8 ∧ 0x04#8 ≠ 0x02#8 ∧ 0x04#8 ≠ 0x03#8) ∧
    ([] : List Byte).length ≤ 255 ∧ (zeros 255).length ≤ 255 ∧
    (withTurns keyed [.issue (frameBytes 0x04 [0xAA])]).PHASE = .IDLE ∧
    (withTurns keyed [.issue (frameBytes 0x04 [0xAA])]).schedule = .issue (frameBytes 0x04 [0xAA]) :: [] :=
  ⟨by decide, by decide, by decide, by rw [zeros_length], rfl, rfl⟩

/-- Each of the five outcomes of the checks, in an idle state whose next turn is the frame. -/
theorem witness_AcceptanceChecksInOrder :
    (0xFF#8 ≠ 0x01#8 ∧ 0xFF#8 ≠ 0x02#8 ∧ 0xFF#8 ≠ 0x03#8) ∧ ([] : List Byte).length = 0 ∧
    (State.reset.PHASE = .IDLE ∧ State.reset.KEY_VALID = false) ∧
    (keyed.PHASE = .IDLE ∧ ¬ keyed.KEY_VALID = false) ∧ (zeros 7).length ≠ 8 ∧ (zeros 8).length = 8 ∧
    (withTurns keyed [.issue (frameBytes 0x02 (zeros 7))]).schedule = .issue (frameBytes 0x02 (zeros 7)) :: [] := by
  decide

theorem witness_BusyEngineHoldsFrame :
    (withTurns (packing 1) [.issue [1, 0]]).PHASE ≠ .IDLE ∧
    (withTurns (packing 1) [.issue [1, 0]]).schedule = .issue [1, 0] :: [] ∧
    (∃ t, step (withTurns (packing 1) [.issue [1, 0]]) = .next t) ∧ (Instr.loadkey []).wf = true :=
  ⟨by decide, rfl, ⟨_, rfl⟩, rfl⟩

/-- Nothing, an opcode alone, LEN with no payload, and one byte too few of the longest payload. -/
theorem witness_UnfinishedFrameNeverIssues :
    ([] : List Byte).length < (1#8).toNat ∧ (zeros 254).length < (255#8).toNat ∧
    ∀ bytes, bytes = [] ∨ bytes = [0x02] ∨ bytes = [0x02, 1] →
      decode bytes = .incomplete ∧ (withTurns keyed [.issue bytes]).PHASE = .IDLE ∧
      (withTurns keyed [.issue bytes]).schedule = .issue bytes :: [] :=
  ⟨by decide, by rw [zeros_length]; decide, by rintro _ (rfl | rfl | rfl) <;> exact ⟨rfl, rfl, rfl⟩⟩

/-- A busy engine with no turn to come, one whose turn is named, and an idle one. -/
theorem witness_IdleEngineWaits :
    (packing 5).schedule = [] ∧ (withTurns (packing 5) [.engine, .readStatus]).schedule = .engine :: [.readStatus] ∧
    keyed.PHASE = .IDLE ∧ keyed.schedule = [] := ⟨rfl, rfl, rfl, rfl⟩

/-- Each clause: a response without data, with data, none yet, none at all. -/
theorem witness_ReadRespReturnsFrame :
    (withTurns { answered with RESP_LEN := 0 } [.readResp]).schedule = .readResp :: [] ∧
    (answered.RESP_VALID = true ∧ { answered with RESP_LEN := 0 }.RESP_LEN = 0) ∧
    (answered.RESP_LEN = 8 ∧ (List.replicate 8 0xAA#8).length = 8 ∧
      ∀ k, k < 8 → Memory.read answered.DOUT k = (List.replicate 8 0xAA#8)[k]?) ∧
    ((packing 1).RESP_VALID = false ∧ (packing 1).PHASE ≠ .IDLE) ∧
    (keyed.RESP_VALID = false ∧ keyed.PHASE = .IDLE) := by decide

theorem witness_ReadStatusReturnsBits : (withTurns (packing 1) [.readStatus]).schedule = .readStatus :: [] := rfl

theorem witness_ResetAbandonsCommand : (withTurns (encrypting 5) [.reset]).schedule = .reset :: [] := rfl

theorem witness_BlockCommandAfterResetAnswersNoKey :
    (0x02#8 = 0x02#8 ∨ 0x02#8 = 0x03#8) ∧ (0x03#8 = 0x02#8 ∨ 0x03#8 = 0x03#8) ∧ (zeros 8).length ≤ 255 ∧
    (withTurns (encrypting 5) [.reset, .issue (frameBytes 0x02 (zeros 8))]).schedule =
      .reset :: .issue (frameBytes 0x02 (zeros 8)) :: [] := by decide

theorem witness_LoadkeyAcceptance :
    answered.PHASE = .IDLE ∧ (1 ≤ (zeros 1).length ∧ (zeros 1).length ≤ 255) ∧
    (1 ≤ (zeros 255).length ∧ (zeros 255).length ≤ 255) := by
  refine ⟨rfl, by decide, ?_⟩
  rw [zeros_length]
  decide

theorem witness_OnlyEmptyKeyIsInvalid :
    keyed.PHASE = .IDLE ∧ ([] : List Byte).length ≤ 255 ∧ (zeros 1).length ≤ 255 ∧ zeros 1 ≠ [] := by decide

theorem witness_EncryptAcceptance : keyed.PHASE = .IDLE ∧ keyed.KEY_VALID = true := ⟨rfl, rfl⟩

theorem witness_DecryptAcceptance : answered.PHASE = .IDLE ∧ answered.KEY_VALID = true := ⟨rfl, rfl⟩

theorem witness_BlockCommandWithoutKeyAnswersNoKey :
    State.reset.PHASE = .IDLE ∧ State.reset.KEY_VALID = false ∧ (zeros 8).length ≤ 255 ∧ (zeros 255).length ≤ 255 :=
  ⟨rfl, rfl, by decide, by rw [zeros_length]⟩

theorem witness_WrongLengthAnswersInvalidLength :
    keyed.PHASE = .IDLE ∧ keyed.KEY_VALID = true ∧
    ∀ n, n = 0 ∨ n = 7 ∨ n = 9 ∨ n = 255 → (zeros n).length ≤ 255 ∧ (zeros n).length ≠ 8 :=
  ⟨rfl, rfl, fun n h => by rw [zeros, List.length_replicate]; omega⟩

/-- The last byte, and a byte before it. -/
theorem witness_PackStepShiftsByteIn :
    ((packing 1).PHASE = .K_PACK ∧ 1 ≤ (packing 1).CNT.toNat ∧ (packing 1).CNT.toNat - 1 = 0 ∧
      (packing 1).CNT.toNat ≤ (packing 1).KLEN.toNat ∧ (packing 1).C.toNat = ((packing 1).KLEN.toNat + 3) / 4 ∧
      Memory.read (packing 1).KEYBUF ((packing 1).CNT.toNat - 1) = some 1 ∧
      Memory.read (packing 1).L (((packing 1).CNT.toNat - 1) / 4) = some 0) ∧
    ((packing 5).PHASE = .K_PACK ∧ 1 ≤ (packing 5).CNT.toNat ∧ (packing 5).CNT.toNat - 1 ≠ 0 ∧
      (packing 5).CNT.toNat ≤ (packing 5).KLEN.toNat ∧ (packing 5).C.toNat = ((packing 5).KLEN.toNat + 3) / 4 ∧
      Memory.read (packing 5).KEYBUF ((packing 5).CNT.toNat - 1) = some 5 ∧
      Memory.read (packing 5).L (((packing 5).CNT.toNat - 1) / 4) = some 0) := by decide

/-- `SI = 0`, 24 and 25. -/
theorem witness_InitStepFillsSubkey :
    ((filling 0).PHASE = .K_INIT ∧ (filling 0).SI.toNat = 0 ∧ (filling 0).C.toNat ≤ 64) ∧
    ((filling 24).SI.toNat = 24 ∧ Memory.read (filling 24).S 23 = some 0) ∧
    ((filling 25).PHASE = .K_INIT ∧ (filling 25).SI.toNat = 25 ∧ Memory.read (filling 25).S 24 = some 0) := by decide

/-- The last iteration and the first; `SI = 25` with `LJ = C - 1` is the last one here. -/
theorem witness_MixStepUpdatesBothTables :
    ((mixing 1).PHASE = .K_MIX ∧ (mixing 1).CNT.toNat - 1 = 0 ∧ 1 ≤ (mixing 1).CNT.toNat ∧ (mixing 1).SI.toNat = 25 ∧
      (mixing 1).C.toNat ≤ 64 ∧ (mixing 1).LJ.toNat = 1 ∧ (mixing 1).LJ.toNat < (mixing 1).C.toNat ∧
      Memory.read (mixing 1).S 25 = some 0 ∧ Memory.read (mixing 1).L 1 = some 0) ∧
    ((mixing 78).PHASE = .K_MIX ∧ (mixing 78).CNT.toNat - 1 ≠ 0 ∧ (mixing 78).SI.toNat = 0 ∧
      (mixing 78).LJ.toNat = 0 ∧ Memory.read (mixing 78).S 0 = some 0 ∧ Memory.read (mixing 78).L 0 = some 0) := by
  decide

theorem witness_EncryptWhitensWithFirstSubkeys :
    ((encrypting 0).PHASE = .ENC ∧ (encrypting 0).SI = 0 ∧ Memory.read (encrypting 0).S 0 = some 0) ∧
    ((encrypting 1).PHASE = .ENC ∧ (encrypting 1).SI = 1 ∧ Memory.read (encrypting 1).S 1 = some 0) := by decide

/-- `k = 2`, 24 (even), 3, 23 (odd), 25 (the last). -/
theorem witness_EncryptHalfRound :
    ∀ k : BitVec 5, k = 2 ∨ k = 24 ∨ k = 3 ∨ k = 23 ∨ k = 25 →
      (encrypting k).PHASE = .ENC ∧ 2 ≤ (encrypting k).SI.toNat ∧ (encrypting k).SI.toNat ≤ 25 ∧
        Memory.read (encrypting k).S (encrypting k).SI.toNat = some 0 := by decide

theorem witness_DecryptHalfRound :
    ∀ k : BitVec 5, k = 2 ∨ k = 24 ∨ k = 3 ∨ k = 25 →
      (decrypting k).PHASE = .DEC ∧ 2 ≤ (decrypting k).SI.toNat ∧ (decrypting k).SI.toNat ≤ 25 ∧
        Memory.read (decrypting k).S (decrypting k).SI.toNat = some 0 := by decide

theorem witness_DecryptUnwhitensAndCompletes :
    ((decrypting 1).PHASE = .DEC ∧ (decrypting 1).SI = 1 ∧ Memory.read (decrypting 1).S 1 = some 0) ∧
    ((decrypting 0).PHASE = .DEC ∧ (decrypting 0).SI = 0 ∧ Memory.read (decrypting 0).S 0 = some 0) := by decide

/-- Each clause at the first value out of range (no run reaches these states). -/
theorem witness_OutOfRangeIndexFaults :
    ((packing 0).PHASE = .K_PACK ∧ (packing 0).CNT.toNat = 0) ∧
    ((packing 6).PHASE = .K_PACK ∧ 1 ≤ (packing 6).CNT.toNat ∧ (packing 6).KLEN.toNat ≤ (packing 6).CNT.toNat - 1) ∧
    ((packing 5).CNT.toNat - 1 < (packing 5).KLEN.toNat ∧
      (Memory.read (packing 5).KEYBUF ((packing 5).CNT.toNat - 1)).isSome = true ∧
      { packing 5 with C := 1 }.C.toNat ≤ ((packing 5).CNT.toNat - 1) / 4) ∧
    ((filling 27).PHASE = .K_INIT ∧ 26 < (filling 27).SI.toNat) ∧
    ((filling 26).SI.toNat = 26 ∧ (Memory.read (filling 26).S 25).isSome = true) ∧
    ((mixing 1).PHASE = .K_MIX ∧ 1 ≤ (mixing 1).CNT.toNat ∧ 26 ≤ { mixing 1 with SI := 26 }.SI.toNat) ∧
    ((mixing 1).SI.toNat < 26 ∧ (Memory.read (mixing 1).S (mixing 1).SI.toNat).isSome = true ∧
      { mixing 1 with LJ := 2 }.C.toNat ≤ { mixing 1 with LJ := 2 }.LJ.toNat) ∧
    ((encrypting 26).PHASE = .ENC ∧ 26 ≤ (encrypting 26).SI.toNat ∧ (decrypting 31).PHASE = .DEC ∧
      26 ≤ (decrypting 31).SI.toNat) := by decide

theorem witness_LoadkeyBuildsExpandedTable :
    answered.PHASE = .IDLE ∧ 1 ≤ (zeros 1).length ∧ (zeros 255).length ≤ 255 :=
  ⟨rfl, by decide, by rw [zeros_length]⟩

/-- The same state and operands serve for DECRYPT. -/
theorem witness_EncryptComputesEncBlock :
    keyed.PHASE = .IDLE ∧ keyed.KEY_VALID = true ∧ (List.replicate 26 (0 : Word)).length = 26 ∧
    (∀ i, i < 26 → Memory.read keyed.S i = (List.replicate 26 (0 : Word))[i]?) ∧ (zeros 8).length = 8 := by decide

theorem witness_DecryptComputesDecBlock :
    answered.PHASE = .IDLE ∧ answered.KEY_VALID = true ∧ (List.replicate 26 (0 : Word)).length = 26 ∧
    (∀ i, i < 26 → Memory.read answered.S i = (List.replicate 26 (0 : Word))[i]?) ∧ (zeros 8).length = 8 := by decide

theorem witness_MachineRefinesOperations :
    Inv answered ∧ answered.PHASE = .IDLE ∧ (Instr.loadkey []).wf = true ∧ (Instr.encrypt (zeros 8)).wf = true ∧
    (Instr.decrypt (zeros 9)).wf = true := ⟨inv_answered, rfl, rfl, rfl, rfl⟩

theorem witness_DecryptionInvertsEncryption :
    (List.replicate 26 (0 : Word)).length = 26 ∧ (zeros 8).length = 8 := by decide

theorem witness_EncryptThenDecryptGivesBlockBack :
    Inv keyed ∧ keyed.PHASE = .IDLE ∧ keyed.KEY_VALID = true ∧ (zeros 8).length = 8 := ⟨inv_keyed, rfl, rfl, rfl⟩

/-- The short last word of a 5-byte key. -/
theorem witness_PackIsLittleEndian : 1 < ((zeros 5).length + 3) / 4 := by decide

theorem witness_InitTableIsArithmetic : (1 ≤ 1 ∧ 1 < 26) ∧ (1 ≤ 25 ∧ 25 < 26) ∧ 0 < 1 := by decide

theorem witness_MixingCount : (1 ≤ 1 ∧ 26 ≤ 26) ∧ (27 ≤ 27 ∧ 64 ≤ 64) := by decide

/-- The lowest and the highest bit. -/
theorem witness_RotateLeftMovesBits : 0 < 32 ∧ 31 < 32 := by decide

theorem witness_RotateRightMovesBits : 0 < 32 ∧ 31 < 32 := by decide

theorem witness_MixRotationSeesLowFiveBits : ((0xF6CC1431 : Word).toNat + (0x58525ACF : Word).toNat) % 32 = 0 := by
  decide

theorem witness_StepKeepsInvariants :
    Inv (packing 5) ∧ ∃ t, step (packing 5) = .next t := ⟨inv_packing, _, rfl⟩

theorem witness_StepKeepsTableOnTrack :
    Safe (packing 5) ∧ ∃ t, step (packing 5) = .next t := ⟨safe_packing, _, rfl⟩

theorem witness_StepKeepsTablesCanonical :
    Canonical (packing 5) ∧ ∃ t, step (packing 5) = .next t := ⟨inv_packing.canonical, _, rfl⟩

theorem witness_MicroStepNeverFaults : Inv (encrypting 25) ∧ (encrypting 25).PHASE ≠ .IDLE :=
  ⟨inv_encrypting, by decide⟩

/-- A reachable state of each kind: one that steps, and the host asking for what is not there. -/
theorem witness_RunsFromResetNeverFault :
    Reachable (start [.readStatus]) ∧ Reachable (start [.readResp]) ∧ (start [.readResp]).RESP_VALID = false :=
  ⟨⟨_, 0, rfl⟩, ⟨_, 0, rfl⟩, rfl⟩

theorem witness_EveryCommandTerminates : Inv (encrypting 25) ∧ (encrypting 25).PHASE ≠ .IDLE :=
  ⟨inv_encrypting, by decide⟩

/-- Each clause: a micro-step, an accepted command, a step that changes the phase, a reset. -/
theorem witness_SequencerTransfers :
    (∃ t, micro (packing 1) = .next t) ∧ (∃ t, exec (.encrypt (zeros 8)) keyed = .next t) ∧
    (∃ t, step (packing 1) = .next t ∧ t.PHASE ≠ (packing 1).PHASE) ∧
    (withTurns (encrypting 5) [.reset]).schedule.head? = some .reset :=
  ⟨⟨_, rfl⟩, ⟨_, rfl⟩, ⟨_, rfl, by decide⟩, rfl⟩

theorem witness_SubkeysWrittenOnlyByKeySchedule :
    (∃ t, step (encrypting 0) = .next t) ∧ (encrypting 0).schedule.head? ≠ some .reset ∧
    (encrypting 0).PHASE ≠ .K_INIT ∧ (encrypting 0).PHASE ≠ .K_MIX ∧ 0 ≠ (mixing 1).SI.toNat ∧
    (∃ t, step (mixing 1) = .next t) := ⟨⟨_, rfl⟩, by decide, by decide, by decide, by decide, _, rfl⟩

theorem witness_TableImmutableWhileKeyValid :
    Inv (encrypting 25) ∧ (encrypting 25).KEY_VALID = true ∧ (∃ t, step (encrypting 25) = .next t) ∧
    (encrypting 25).schedule.head? ≠ some .reset := ⟨inv_encrypting, rfl, ⟨_, rfl⟩, by decide⟩

/-- `KEY_VALID` comes on; it goes off by reset and by an accepted LOADKEY. -/
theorem witness_KeyValidTransitions :
    (∃ t, step (mixing 1) = .next t ∧ (mixing 1).KEY_VALID = false ∧ t.KEY_VALID = true) ∧
    (∃ t, step (withTurns keyed [.reset]) = .next t ∧ keyed.KEY_VALID = true ∧ t.KEY_VALID = false) ∧
    (∃ t, step (withTurns keyed [.issue [1, 1, 0xAB]]) = .next t ∧ keyed.KEY_VALID = true ∧ t.KEY_VALID = false) :=
  ⟨⟨_, rfl, rfl, rfl⟩, ⟨_, rfl, rfl, rfl⟩, ⟨_, rfl, rfl, rfl⟩⟩

/-- A step that completes and one that does not. -/
theorem witness_BusyEngineNeverRaises :
    (encrypting 25).PHASE ≠ .IDLE ∧ (∃ t, micro (encrypting 25) = .next t ∧ t.PHASE = .IDLE) ∧
    (packing 5).PHASE ≠ .IDLE ∧ (∃ t, micro (packing 5) = .next t ∧ t.PHASE ≠ .IDLE) :=
  ⟨by decide, ⟨_, rfl, rfl⟩, by decide, ⟨_, rfl, by decide⟩⟩

theorem witness_ResponseKeptUntilNextCommand :
    Inv answered ∧ answered.RESP_VALID = true ∧ (∃ t, step answered = .next t) ∧
    (∀ bytes, answered.schedule.head? ≠ some (.issue bytes)) ∧ answered.schedule.head? ≠ some .reset :=
  ⟨inv_answered, rfl, ⟨_, rfl⟩, fun _ h => by simp [answered, keyed, State.reset] at h, by decide⟩

/-- Two states that differ in dead registers only. -/
theorem witness_DeadStateUnobservable :
    Inv keyed ∧ Inv { keyed with CNT := 9, LJ := 7, KLEN := 3 } ∧ SameLive keyed { keyed with CNT := 9, LJ := 7, KLEN := 3 } ∧
    keyed ≠ { keyed with CNT := 9, LJ := 7, KLEN := 3 } := by
  refine ⟨inv_keyed, ?_, ?_, by decide⟩
  · constructor <;> simp [keyed, State.reset, Phase.expanding, Phase.onBlock]
    · exact ⟨by decide, by decide, by decide, by decide⟩
    · decide
  · constructor <;> simp [keyed, State.reset, Phase.expanding, Phase.onBlock, Memory.agree]

end Sys2Proof.Tests
end

section
/-! PROOFS. Runs that count down `stepsLeft` (70_reset_and_hazards.md R191). -/

namespace Sys2Proof.Machine

theorem stepsLeft_of_idle {s : State} (h : s.PHASE = .IDLE) : stepsLeft s = 0 := by
  simp only [stepsLeft, h]

section
variable {P Q : State → Prop}
  (hstep : ∀ s, P s → ∃ t, micro s = .next t ∧ stepsLeft s = stepsLeft t + 1 ∧ (P t ∨ Q t))
  (hidle : ∀ s, Q s → s.PHASE = .IDLE)
include hstep hidle

/-- Where every micro-step from `P` counts `stepsLeft` down and leads to `P` again or, in `IDLE`, to `Q`, the
command completes in `Q` after exactly `stepsLeft` micro-steps. -/
theorem completesIn_of_steps {s : State} (hs : P s) : ∃ u, CompletesIn (stepsLeft s) s u ∧ Q u := by
  generalize hn : stepsLeft s = n
  induction n generalizing s with
  | zero =>
    obtain ⟨t, _, hl, _⟩ := hstep s hs
    omega
  | succ n ih =>
    obtain ⟨t, ht, hl, hnext⟩ := hstep s hs
    have hbusy : s.PHASE ≠ .IDLE := fun h => by rw [stepsLeft_of_idle h] at hl; omega
    have hrest : ∃ u, CompletesIn n t u ∧ Q u := by
      rcases hnext with hP | hQ
      · exact ih hP (by omega)
      · have h0 := stepsLeft_of_idle (hidle t hQ)
        obtain rfl : n = 0 := by omega
        exact ⟨t, completesIn_zero (hidle t hQ), hQ⟩
    obtain ⟨u, hu, hQ⟩ := hrest
    exact ⟨u, completesIn_succ hbusy ht hu, hQ⟩

end

end Sys2Proof.Machine
end

section
/-! PROOFS. The key schedule's micro-steps compute `EXPAND` of the key (40_key_schedule.md R92 to R100). -/

namespace Sys2Proof.Machine

/-- What every state of a LOADKEY of `key` has: the key in `KEYBUF` and the elements of R184 that hold a value. -/
structure KeyHeld (key : List Byte) (s : State) : Prop where
  holds : keyBytes s = key
  nonempty : 1 ≤ s.KLEN.toNat
  unkeyed : s.KEY_VALID = false
  words : s.C.toNat = Config.numWords s.KLEN.toNat
  fullL : Memory.full s.C.toNat s.L
  fullKey : Memory.full s.KLEN.toNat s.KEYBUF

/-- In `K_PACK`: the bytes below `CNT` are still to be packed (R92, R97). -/
structure Packing (key : List Byte) (s : State) : Prop extends KeyHeld key s where
  PHASE : s.PHASE = .K_PACK
  left : 1 ≤ s.CNT.toNat
  bytes : s.CNT.toNat ≤ s.KLEN.toNat
  track : packFrom key s.CNT.toNat (tableWords s.L s.C.toNat) = pack key

/-- In `K_INIT`: the words below `SI` are written (R94, R98). -/
structure Filling (key : List Byte) (s : State) : Prop extends KeyHeld key s where
  PHASE : s.PHASE = .K_INIT
  index : s.SI.toNat < 26
  fullS : Memory.full s.SI.toNat s.S
  packed : tableWords s.L s.C.toNat = pack key
  track : tableWords s.S s.SI.toNat = initTable s.SI.toNat

/-- In `K_MIX`: all but `CNT` iterations are done (R95, R99). -/
structure Mixing (key : List Byte) (s : State) : Prop extends KeyHeld key s where
  PHASE : s.PHASE = .K_MIX
  left : 1 ≤ s.CNT.toNat
  count : s.CNT.toNat ≤ Config.MIXN s.C.toNat
  index : s.SI.toNat < 26
  wordIndex : s.LJ.toNat < s.C.toNat
  fullS : Memory.full 26 s.S
  track : mixRun 26 s.C.toNat (Config.MIXN s.C.toNat - s.CNT.toNat) (mixStart (initTable 26) (pack key)) =
    { S := tableWords s.S 26, L := tableWords s.L s.C.toNat, A := s.A, B := s.B, i := s.SI.toNat, j := s.LJ.toNat }

/-- A LOADKEY of `key` in progress. -/
def Building (key : List Byte) (s : State) : Prop := Packing key s ∨ Filling key s ∨ Mixing key s

/-- The state at the end of a LOADKEY of `key` (R100, R103). -/
structure KeyLoaded (key : List Byte) (s : State) : Prop where
  PHASE : s.PHASE = .IDLE
  KEY_VALID : s.KEY_VALID = true
  RESP_VALID : s.RESP_VALID = true
  RESP_STATUS : s.RESP_STATUS = .OK
  RESP_LEN : s.RESP_LEN = 0
  fullS : Memory.full 26 s.S
  table : tableWords s.S 26 = expand 12 key

theorem numWords_pos {n : Nat} (h : 1 ≤ n) : 1 ≤ Config.numWords n := by
  rw [numWords_eq]
  omega

theorem KeyHeld.words_bounds {key : List Byte} {s : State} (h : KeyHeld key s) :
    1 ≤ s.C.toNat ∧ s.C.toNat ≤ 64 := by
  rw [h.words]
  exact ⟨numWords_pos h.nonempty, numWords_le s.KLEN⟩

theorem Memory.exists_read_of_full {α : Type} {n i : Nat} {m : Memory α} (h : Memory.full n m) (hi : i < n) :
    ∃ v, Memory.read m i = some v :=
  Option.isSome_iff_exists.1 (h i hi)

/-- One step of the packing loop, on the words of `L` (R92, R97). -/
theorem packFrom_tableWords {s : State} {n : Nat} {byte : Byte} {word : Word} (hk : n < s.KLEN.toNat)
    (hq : n / 4 < s.C.toNat) (hb : Memory.read s.KEYBUF n = some byte) (hw : Memory.read s.L (n / 4) = some word) :
    packFrom (keyBytes s) (n + 1) (tableWords s.L s.C.toNat) =
      packFrom (keyBytes s) n (tableWords (Memory.write s.L (n / 4) (packByte word byte)) s.C.toNat) := by
  rw [packFrom, tableWords_getD _ hq, hw, byteAt_keyBytes hk, hb, tableWords_write]
  rfl

/-- One step of the filling loop, on the words of `S` (R94, R98). -/
theorem initTable_tableWords {m : Memory Word} {k : Nat} {w : Word} (h : tableWords m k = initTable k)
    (hw : (k = 0 ∧ w = Config.P32) ∨
      (k ≠ 0 ∧ ∃ v, Memory.read m (k - 1) = some v ∧ w = add32 v Config.Q32)) :
    tableWords (Memory.write m k w) (k + 1) = initTable (k + 1) := by
  have hword : w = initWord k := by
    rcases hw with ⟨rfl, rfl⟩ | ⟨hk, v, hv, rfl⟩
    · rfl
    · obtain ⟨j, rfl⟩ := Nat.exists_eq_succ_of_ne_zero hk
      rw [Nat.succ_eq_add_one, Nat.add_sub_cancel] at hv
      rw [tableWords_succ, initTable_succ, hv] at h
      have hlast := (List.append_inj' h rfl).2
      rw [initWord, ← List.singleton_injective hlast]
      rfl
  have hkeep : tableWords (Memory.write m k w) k = tableWords m k := by
    rw [tableWords_write, List.set_eq_of_length_le (by simp)]
  rw [tableWords_succ, hkeep, h, Memory.read_write_same, initTable_succ, hword]
  rfl

/-- One iteration of the mixing pass, on the words of both tables (R95, R99). -/
theorem mixStep_tableWords {S L : Memory Word} {t c i j : Nat} {A B sv lv : Word} (hi : i < t) (hj : j < c)
    (hs : Memory.read S i = some sv) (hl : Memory.read L j = some lv) :
    let a := rotl (add32 (add32 sv A) B) 3
    let b := rotl (add32 (add32 lv a) B) (add32 a B).toNat
    mixStep t c { S := tableWords S t, L := tableWords L c, A := A, B := B, i := i, j := j } =
      { S := tableWords (Memory.write S i a) t, L := tableWords (Memory.write L j b) c, A := a, B := b
        i := (i + 1) % t, j := (j + 1) % c } := by
  simp only [mixStep, tableWords_getD _ hi, tableWords_getD _ hj, hs, hl, tableWords_write, Option.getD_some]

/-- The key is held as long as its registers and tables are. -/
theorem KeyHeld.congr {key : List Byte} {s t : State} (h : KeyHeld key s) (hlen : t.KLEN = s.KLEN)
    (hbuf : t.KEYBUF = s.KEYBUF) (hvalid : t.KEY_VALID = s.KEY_VALID) (hc : t.C = s.C)
    (hL : Memory.full s.C.toNat t.L) : KeyHeld key t where
  holds := (keyBytes_congr hlen hbuf).trans h.holds
  nonempty := hlen ▸ h.nonempty
  unkeyed := hvalid.trans h.unkeyed
  words := by rw [hc, hlen, h.words]
  fullL := hc.symm ▸ hL
  fullKey := by rw [hlen, hbuf]; exact h.fullKey

theorem KeyHeld.words_length {key : List Byte} {s : State} (h : KeyHeld key s) :
    s.C.toNat = Config.numWords key.length := by
  rw [h.words, ← h.holds, keyBytes_length]

/-- `EXPAND` of this hardware as a run of the mixing pass (R90). -/
theorem expand_eq (key : List Byte) :
    expand 12 key = (mixRun 26 (Config.numWords key.length) (Config.MIXN (Config.numWords key.length))
      (mixStart (initTable 26) (pack key))).S := rfl

/-- `K_PACK` goes on, or leads to `K_INIT` with all bytes packed (R97). -/
theorem Packing.step {key : List Byte} {s : State} (h : Packing key s) :
    ∃ t, micro s = .next t ∧ stepsLeft s = stepsLeft t + 1 ∧ Building key t := by
  have hcnt : s.CNT ≠ 0 := fun e => by have := h.left; simp [e] at this
  have hdec := cnt_sub_one hcnt
  have hleft := h.left
  have hbytes := h.bytes
  have hk : s.CNT.toNat - 1 < s.KLEN.toNat := by omega
  have hq : (s.CNT.toNat - 1) / 4 < s.C.toNat := by rw [h.words, numWords_eq]; omega
  obtain ⟨byte, hb⟩ := Memory.exists_read_of_full h.fullKey hk
  obtain ⟨word, hw⟩ := Memory.exists_read_of_full h.fullL hq
  have hpack := packFrom_tableWords hk hq hb hw
  rw [Nat.sub_add_cancel hleft, h.holds, h.track] at hpack
  have hL := Memory.full_write ((s.CNT.toNat - 1) / 4) (packByte word byte) h.fullL
  simp only [micro, h.PHASE]
  refine ⟨_, kPack_next.2 ⟨hcnt, hk, hq, byte, word, hb, hw, rfl⟩, ?_⟩
  split
  · rename_i hlast
    rw [cnt_sub_one_eq_zero] at hlast
    refine ⟨?_, .inr (.inl ?_)⟩
    · simp only [stepsLeft, h.PHASE, hlast, T_eq, BitVec.ofNat_eq_ofNat, BitVec.toNat_zero]
      omega
    exact {
      toKeyHeld := h.toKeyHeld.congr rfl rfl rfl rfl hL
      PHASE := rfl, index := Nat.zero_lt_succ 25, fullS := fun _ hi => absurd hi (Nat.not_lt_zero _)
      packed := by simpa only [hlast, Nat.sub_self, packFrom] using hpack.symm
      track := rfl }
  · rename_i hlast
    rw [cnt_sub_one_eq_zero] at hlast
    refine ⟨by simp only [stepsLeft, h.PHASE, hdec]; omega, .inl ?_⟩
    exact {
      toKeyHeld := h.toKeyHeld.congr rfl rfl rfl rfl hL
      PHASE := h.PHASE, left := by simp only [hdec]; omega, bytes := by simp only [hdec]; omega
      track := by simp only [hdec, hpack] }

/-- `K_INIT` goes on, or leads to `K_MIX` with the whole table filled (R98). -/
theorem Filling.step {key : List Byte} {s : State} (h : Filling key s) :
    ∃ t, micro s = .next t ∧ stepsLeft s = stepsLeft t + 1 ∧ Building key t := by
  have hi := h.index
  obtain ⟨hc1, hc64⟩ := h.words_bounds
  have hvalue : ∃ w, (s.SI.toNat = 0 ∧ w = Config.P32) ∨
      (s.SI.toNat ≠ 0 ∧ ∃ v, Memory.read s.S (s.SI.toNat - 1) = some v ∧ w = add32 v Config.Q32) := by
    by_cases h0 : s.SI.toNat = 0
    · exact ⟨_, .inl ⟨h0, rfl⟩⟩
    · obtain ⟨v, hv⟩ := Memory.exists_read_of_full h.fullS (show s.SI.toNat - 1 < s.SI.toNat by omega)
      exact ⟨_, .inr ⟨h0, v, hv, rfl⟩⟩
  obtain ⟨w, hw⟩ := hvalue
  have htable := initTable_tableWords h.track hw
  have hS := Memory.full_write_succ w h.fullS
  simp only [micro, h.PHASE]
  refine ⟨_, kInit_next.2 ⟨hi, w, hw, rfl⟩, ?_⟩
  split
  · rename_i hlast
    rw [hlast] at htable hS
    have hcount : (BitVec.ofNat 8 (Config.MIXN s.C.toNat)).toNat = Config.MIXN s.C.toNat := by
      rw [BitVec.toNat_ofNat, MIXN_eq]
      omega
    have hpos : 1 ≤ Config.MIXN s.C.toNat := by
      rw [MIXN_eq]
      omega
    refine ⟨by simp only [stepsLeft, h.PHASE, hlast, hcount, T_eq]; omega, .inr (.inr ?_)⟩
    exact {
      toKeyHeld := h.toKeyHeld.congr rfl rfl rfl rfl h.fullL
      PHASE := rfl, left := hcount.symm ▸ hpos, count := hcount.le, index := Nat.zero_lt_succ 25
      wordIndex := hc1, fullS := by simpa only [hlast] using hS
      track := by simp only [hlast, hcount, Nat.sub_self, htable, h.packed]; rfl }
  · rename_i hlast
    have hnext : (s.SI + 1).toNat = s.SI.toNat + 1 := by bv_omega
    refine ⟨by simp only [stepsLeft, h.PHASE, hnext, T_eq]; omega, .inr (.inl ?_)⟩
    exact {
      toKeyHeld := h.toKeyHeld.congr rfl rfl rfl rfl h.fullL
      PHASE := h.PHASE, index := by simp only [hnext]; omega, fullS := by simpa only [hnext] using hS
      packed := h.packed, track := by simpa only [hnext] using htable }

/-- `K_MIX` goes on, or completes the LOADKEY with the expanded table (R99, R100). -/
theorem Mixing.step {key : List Byte} {s : State} (h : Mixing key s) :
    ∃ t, micro s = .next t ∧ stepsLeft s = stepsLeft t + 1 ∧ (Building key t ∨ KeyLoaded key t) := by
  have hcnt : s.CNT ≠ 0 := fun e => by have := h.left; simp [e] at this
  have hdec := cnt_sub_one hcnt
  have hleft := h.left
  have hcount := h.count
  obtain ⟨hc1, hc64⟩ := h.words_bounds
  obtain ⟨sv, hs⟩ := Memory.exists_read_of_full h.fullS h.index
  obtain ⟨lv, hl⟩ := Memory.exists_read_of_full h.fullL h.wordIndex
  have hmix := mixRun_succ 26 s.C.toNat (Config.MIXN s.C.toNat - s.CNT.toNat) (mixStart (initTable 26) (pack key))
  rw [h.track, mixStep_tableWords h.index h.wordIndex hs hl] at hmix
  have hj : (s.LJ.toNat + 1) % s.C.toNat < s.C.toNat := Nat.mod_lt _ hc1
  simp only [micro, h.PHASE]
  refine ⟨_, kMix_next.2 ⟨hcnt, h.wordIndex, h.index, sv, lv, _, _, hs, hl, rfl, rfl, rfl⟩, ?_⟩
  split
  · rename_i hlast
    rw [cnt_sub_one_eq_zero] at hlast
    refine ⟨by simp [stepsLeft, h.PHASE, hlast], .inr ?_⟩
    rw [hlast, Nat.sub_add_cancel (by omega)] at hmix
    exact {
      PHASE := rfl, KEY_VALID := rfl, RESP_VALID := rfl, RESP_STATUS := rfl, RESP_LEN := rfl
      fullS := Memory.full_write _ _ h.fullS
      table := by
        rw [expand_eq, ← h.words_length, hmix]
        rfl }
  · rename_i hlast
    rw [cnt_sub_one_eq_zero] at hlast
    have hsi : (BitVec.ofNat 5 ((s.SI.toNat + 1) % 26)).toNat = (s.SI.toNat + 1) % 26 := by
      rw [BitVec.toNat_ofNat]
      omega
    have hlj : (BitVec.ofNat 6 ((s.LJ.toNat + 1) % s.C.toNat)).toNat = (s.LJ.toNat + 1) % s.C.toNat := by
      rw [BitVec.toNat_ofNat, Nat.mod_eq_of_lt (by omega)]
    refine ⟨by simp only [stepsLeft, h.PHASE, hdec]; omega, .inl (.inr (.inr ?_))⟩
    exact {
      toKeyHeld := h.toKeyHeld.congr rfl rfl rfl rfl (Memory.full_write _ _ h.fullL)
      PHASE := h.PHASE, left := by simp only [hdec]; omega, count := by simp only [hdec]; omega
      index := by simp only [hsi]; omega
      wordIndex := by simpa only [hlj] using hj
      fullS := Memory.full_write _ _ h.fullS
      track := by
        simp only [hdec, hsi, hlj, ← hmix]
        congr 1
        omega }

/-- The key bytes of a buffer that reads as `key`. -/
theorem keyBytes_eq_of_read {s : State} {key : List Byte} (hlen : s.KLEN.toNat = key.length)
    (h : ∀ k, k < key.length → Memory.read s.KEYBUF k = key[k]?) : keyBytes s = key := by
  apply List.ext_getElem (by rw [keyBytes_length, hlen])
  intro k hk hk'
  simp only [keyBytes, List.getElem_map, List.getElem_range, h k hk', List.getElem?_eq_getElem hk', Option.getD_some]

/-- Acceptance of a LOADKEY starts the packing loop (R92, R96). -/
theorem packing_acceptLoadkey {key : List Byte} (s : State) (h1 : 1 ≤ key.length) (h255 : key.length ≤ 255) :
    Packing key (acceptLoadkey key s) := by
  have hlen : (acceptLoadkey key s).KLEN.toNat = key.length := by
    rw [acceptLoadkey_KLEN, BitVec.toNat_ofNat, Nat.mod_eq_of_lt (by omega)]
  have hwords : (acceptLoadkey key s).C.toNat = Config.numWords key.length := by
    rw [acceptLoadkey_C, BitVec.toNat_ofNat, Nat.mod_eq_of_lt (by rw [numWords_eq]; omega)]
  have hzero : tableWords (acceptLoadkey key s).L (Config.numWords key.length) =
      List.replicate (Config.numWords key.length) 0 := by
    have hread := tableWords_eq_of_read (m := (acceptLoadkey key s).L)
      (S := List.replicate (Config.numWords key.length) 0) fun i hi => by
        rw [acceptLoadkey_L, Memory.read_writeList, if_pos (by omega), Nat.sub_zero]
    rwa [List.length_replicate] at hread
  refine {
    holds := keyBytes_eq_of_read hlen fun k hk => ?_
    nonempty := hlen ▸ h1, unkeyed := rfl, words := by rw [hwords, hlen]
    fullL := ?_, fullKey := ?_
    PHASE := rfl, left := hlen ▸ h1, bytes := Nat.le_refl _, track := ?_ }
  · rw [acceptLoadkey_KEYBUF, Memory.read_writeList, if_pos (by omega), Nat.sub_zero]
  · rw [hwords, acceptLoadkey_L]
    simpa only [List.length_replicate] using
      Memory.full_writeList s.L (List.replicate (Config.numWords key.length) (0 : Word))
  · rw [hlen]
    exact Memory.full_writeList s.KEYBUF key
  · show packFrom key (acceptLoadkey key s).KLEN.toNat _ = _
    rw [hlen, hwords, hzero, pack]

/-- A LOADKEY in progress goes on, or completes. -/
theorem Building.step {key : List Byte} {s : State} (h : Building key s) :
    ∃ t, micro s = .next t ∧ stepsLeft s = stepsLeft t + 1 ∧ (Building key t ∨ KeyLoaded key t) := by
  rcases h with h | h | h
  · obtain ⟨t, ht, hl, hb⟩ := h.step
    exact ⟨t, ht, hl, .inl hb⟩
  · obtain ⟨t, ht, hl, hb⟩ := h.step
    exact ⟨t, ht, hl, .inl hb⟩
  · exact h.step

/-- An accepted LOADKEY completes with the expanded key (R103). -/
theorem acceptLoadkey_completes {key : List Byte} (s : State) (h1 : 1 ≤ key.length) (h255 : key.length ≤ 255) :
    ∃ u, CompletesIn (stepsLeft (acceptLoadkey key s)) (acceptLoadkey key s) u ∧ KeyLoaded key u :=
  completesIn_of_steps (fun _ => Building.step) (fun _ h => h.PHASE) (.inl (packing_acceptLoadkey s h1 h255))

end Sys2Proof.Machine
end

section
/-! PROOFS. The block micro-steps compute `ENC_BLOCK` and `DEC_BLOCK` of the table (41_encrypt.md R110 to R117,
42_decrypt.md R120 to R127). -/

namespace Sys2Proof.Machine

/-- `u` is `s` but for what a block command writes (R113 to R115, R123 to R125). -/
def BlockFrame (s u : State) : Prop :=
  u = { s with A := u.A, B := u.B, SI := u.SI, DOUT := u.DOUT, PHASE := u.PHASE, RESP_VALID := u.RESP_VALID
               RESP_STATUS := u.RESP_STATUS, RESP_LEN := u.RESP_LEN }

theorem BlockFrame.S_eq {s u : State} (h : BlockFrame s u) : u.S = s.S := by
  rw [h]

theorem BlockFrame.KEY_VALID_eq {s u : State} (h : BlockFrame s u) : u.KEY_VALID = s.KEY_VALID := by
  rw [h]

theorem BlockFrame.trans {s t u : State} (h : BlockFrame s t) (h' : BlockFrame t u) : BlockFrame s u := by
  unfold BlockFrame at h h' ⊢
  rw [h', h]

/-- The state at the end of a block command that answers `data`, issued in `s₀` (R115, R125). -/
structure BlockDone (s₀ : State) (data : List Byte) (s : State) : Prop where
  PHASE : s.PHASE = .IDLE
  frame : BlockFrame s₀ s
  RESP_VALID : s.RESP_VALID = true
  RESP_STATUS : s.RESP_STATUS = .OK
  RESP_LEN : s.RESP_LEN = 8
  length : data.length = 8
  dout : ∀ k, k < 8 → Memory.read s.DOUT k = data[k]?

theorem blockDone_completeBlock {s₀ s : State} (hf : BlockFrame s₀ s) :
    BlockDone s₀ (blockBytes s.A s.B) (completeBlock s) where
  PHASE := rfl
  frame := by
    unfold BlockFrame at hf ⊢
    rw [hf]
    rfl
  RESP_VALID := rfl
  RESP_STATUS := rfl
  RESP_LEN := rfl
  length := rfl
  dout k hk := by
    rw [completeBlock_DOUT, Memory.read_writeList, blockBytes_length, if_pos (by omega), Nat.sub_zero]

/-- What the micro-step of `ENC` at index `k` with the subkey `sk` does to `(A, B)` (R114, R115). -/
def encUpdate (k : Nat) (sk : Word) (ab : Word × Word) : Word × Word :=
  if k = 0 then (add32 ab.1 sk, ab.2)
  else if k = 1 then (ab.1, add32 ab.2 sk)
  else if k % 2 = 0 then (add32 (rotl (xor32 ab.1 ab.2) ab.2.toNat) sk, ab.2)
  else (ab.1, add32 (rotl (xor32 ab.2 ab.1) ab.1.toNat) sk)

/-- `(A, B)` after the first `k` micro-steps of `ENC`. -/
def encUpTo (S : List Word) : Nat → Word × Word → Word × Word
  | 0, ab => ab
  | k + 1, ab => encUpdate k (subkey S k) (encUpTo S k ab)

/-- Two micro-steps make a round (R110, R112). -/
theorem encUpTo_eq_encRounds (S : List Word) (r : Nat) (ab : Word × Word) :
    encUpTo S (2 * r + 2) ab = encRounds S r (add32 ab.1 (subkey S 0), add32 ab.2 (subkey S 1)) := by
  induction r with
  | zero => rfl
  | succ r ih =>
    have heven : (2 * r + 2) % 2 = 0 := by omega
    have hodd : (2 * r + 2 + 1) % 2 ≠ 0 := by omega
    show encUpdate (2 * r + 2 + 1) _ (encUpdate (2 * r + 2) _ (encUpTo S (2 * r + 2) ab)) = _
    rw [ih]
    simp [encUpdate, heven, hodd, encRounds, encRound, Nat.mul_add]

/-- The block update of the micro-step of `ENC` at index `k`, before the index moves on. -/
def encMicro (k : Nat) (sk : Word) (s : State) : State :=
  if k < 2 then encWhiten k sk s else encHalfRound k sk s

theorem encMicro_frame (k : Nat) (sk : Word) (s : State) : BlockFrame s (encMicro k sk s) := by
  unfold BlockFrame encMicro encWhiten encHalfRound
  repeat' split
  all_goals rfl

theorem encMicro_PHASE (k : Nat) (sk : Word) (s : State) : (encMicro k sk s).PHASE = s.PHASE := by
  unfold encMicro
  split <;> simp only [encWhiten_PHASE, encHalfRound_PHASE]

theorem encMicro_registers (k : Nat) (sk : Word) (s : State) :
    ((encMicro k sk s).A, (encMicro k sk s).B) = encUpdate k sk (s.A, s.B) := by
  unfold encMicro encUpdate encWhiten encHalfRound
  by_cases h0 : k = 0
  · simp [h0]
  · by_cases h1 : k = 1
    · simp [h1]
    · have h2 : ¬ k < 2 := by omega
      by_cases he : k % 2 = 0 <;> simp [h0, h1, h2, he]

theorem micro_of_enc {s : State} {sk : Word} (hp : s.PHASE = .ENC) (hi : s.SI.toNat < 26)
    (hsk : Memory.read s.S s.SI.toNat = some sk) :
    micro s = .next (if s.SI.toNat = 25 then completeBlock (encMicro s.SI.toNat sk s)
      else { encMicro s.SI.toNat sk s with SI := s.SI + 1 }) := by
  simp only [micro, hp]
  refine encStep_next.2 ⟨hi, sk, hsk, ?_⟩
  split
  · rename_i hlast
    rw [encMicro, if_neg (by omega)]
  · rfl

/-- What the micro-step of `DEC` at index `k` with the subkey `sk` does to `(A, B)` (R124, R125). -/
def decUpdate (k : Nat) (sk : Word) (ab : Word × Word) : Word × Word :=
  if k = 0 then (sub32 ab.1 sk, ab.2)
  else if k = 1 then (ab.1, sub32 ab.2 sk)
  else if k % 2 = 0 then (xor32 (rotr (sub32 ab.1 sk) ab.2.toNat) ab.2, ab.2)
  else (ab.1, xor32 (rotr (sub32 ab.2 sk) ab.1.toNat) ab.1)

/-- `(A, B)` after the last micro-steps of `DEC`, those at the indices `k` down to 0. -/
def decFrom (S : List Word) : Nat → Word × Word → Word × Word
  | 0, ab => decUpdate 0 (subkey S 0) ab
  | k + 1, ab => decFrom S k (decUpdate (k + 1) (subkey S (k + 1)) ab)

/-- Two micro-steps make a round (R120, R122). -/
theorem decFrom_eq_decRounds (S : List Word) (r : Nat) (ab : Word × Word) :
    decFrom S (2 * r + 1) ab =
      (sub32 (decRounds S r ab).1 (subkey S 0), sub32 (decRounds S r ab).2 (subkey S 1)) := by
  induction r generalizing ab with
  | zero => rfl
  | succ r ih =>
    have heven : (2 * r + 2) % 2 = 0 := by omega
    have hodd : (2 * r + 2 + 1) % 2 ≠ 0 := by omega
    show decFrom S (2 * r + 1) (decUpdate (2 * r + 2) _ (decUpdate (2 * r + 2 + 1) _ ab)) = _
    rw [ih]
    simp [decUpdate, heven, hodd, decRounds, decRound, Nat.mul_add]

/-- The block update of the micro-step of `DEC` at index `k`, before the index moves on. -/
def decMicro (k : Nat) (sk : Word) (s : State) : State :=
  if k < 2 then decUnwhiten k sk s else decHalfRound k sk s

theorem decMicro_frame (k : Nat) (sk : Word) (s : State) : BlockFrame s (decMicro k sk s) := by
  unfold BlockFrame decMicro decUnwhiten decHalfRound
  repeat' split
  all_goals rfl

theorem decMicro_PHASE (k : Nat) (sk : Word) (s : State) : (decMicro k sk s).PHASE = s.PHASE := by
  unfold decMicro
  split <;> simp only [decUnwhiten_PHASE, decHalfRound_PHASE]

theorem decMicro_registers (k : Nat) (sk : Word) (s : State) :
    ((decMicro k sk s).A, (decMicro k sk s).B) = decUpdate k sk (s.A, s.B) := by
  unfold decMicro decUpdate decUnwhiten decHalfRound
  by_cases h0 : k = 0
  · simp [h0]
  · by_cases h1 : k = 1
    · simp [h1]
    · have h2 : ¬ k < 2 := by omega
      by_cases he : k % 2 = 0 <;> simp [h0, h1, h2, he]

theorem micro_of_dec {s : State} {sk : Word} (hp : s.PHASE = .DEC) (hi : s.SI.toNat < 26)
    (hsk : Memory.read s.S s.SI.toNat = some sk) :
    micro s = .next (if s.SI.toNat = 0 then completeBlock (decMicro s.SI.toNat sk s)
      else { decMicro s.SI.toNat sk s with SI := s.SI - 1 }) := by
  simp only [micro, hp]
  refine decStep_next.2 ⟨hi, sk, hsk, ?_⟩
  split
  · rename_i hlast
    rw [decMicro, if_pos (by omega)]
  · rfl

theorem subkey_tableWords {m : Memory Word} {n k : Nat} {sk : Word} (hk : k < n)
    (h : Memory.read m k = some sk) : subkey (tableWords m n) k = sk := by
  rw [subkey, tableWords_getD m hk, h, Option.getD_some]

theorem encBlock_eq_encUpTo (S : List Word) (blk : List Byte) :
    encBlock 12 S blk = blockBytes (encUpTo S 26 (blockA blk, blockB blk)).1
      (encUpTo S 26 (blockA blk, blockB blk)).2 := by
  rw [encUpTo_eq_encRounds S 12]
  rfl

theorem decBlock_eq_decFrom (S : List Word) (blk : List Byte) :
    decBlock 12 S blk = blockBytes (decFrom S 25 (blockA blk, blockB blk)).1
      (decFrom S 25 (blockA blk, blockB blk)).2 := by
  rw [decFrom_eq_decRounds S 12]
  rfl

/-- An ENCRYPT of `blk` in progress, issued in `s₀`: the micro-steps below `SI` are done (R114, R115). -/
structure Encrypting (s₀ : State) (blk : List Byte) (s : State) : Prop where
  PHASE : s.PHASE = .ENC
  index : s.SI.toNat < 26
  frame : BlockFrame s₀ s
  registers : (s.A, s.B) = encUpTo (tableWords s₀.S 26) s.SI.toNat (blockA blk, blockB blk)

/-- A DECRYPT of `blk` in progress, issued in `s₀`: the micro-steps from `SI` down are left (R124, R125). -/
structure Decrypting (s₀ : State) (blk : List Byte) (s : State) : Prop where
  PHASE : s.PHASE = .DEC
  index : s.SI.toNat < 26
  frame : BlockFrame s₀ s
  registers : decFrom (tableWords s₀.S 26) s.SI.toNat (s.A, s.B) =
    decFrom (tableWords s₀.S 26) 25 (blockA blk, blockB blk)

theorem encrypting_acceptEncrypt {s₀ s : State} {blk : List Byte} (hf : BlockFrame s₀ s) :
    Encrypting s₀ blk (acceptEncrypt blk s) :=
  ⟨rfl, Nat.zero_lt_succ 25, hf.trans rfl, rfl⟩

theorem decrypting_acceptDecrypt {s₀ s : State} {blk : List Byte} (hf : BlockFrame s₀ s) :
    Decrypting s₀ blk (acceptDecrypt blk s) :=
  ⟨rfl, Nat.lt_succ_self 25, hf.trans rfl, rfl⟩

section
variable {s₀ : State} {blk : List Byte} (hfull : Memory.full 26 s₀.S)
include hfull

/-- `ENC` goes on, or completes with the encrypted block (R114, R115). -/
theorem Encrypting.step {s : State} (h : Encrypting s₀ blk s) :
    ∃ t, micro s = .next t ∧ stepsLeft s = stepsLeft t + 1 ∧
      (Encrypting s₀ blk t ∨ BlockDone s₀ (encBlock 12 (tableWords s₀.S 26) blk) t) := by
  have hi := h.index
  obtain ⟨sk, hsk⟩ := Memory.exists_read_of_full hfull hi
  have hframe := h.frame.trans (encMicro_frame s.SI.toNat sk s)
  have hregs := encMicro_registers s.SI.toNat sk s
  rw [h.registers, ← subkey_tableWords hi hsk, ← encUpTo, subkey_tableWords hi hsk] at hregs
  refine ⟨_, micro_of_enc h.PHASE hi (h.frame.S_eq ▸ hsk), ?_⟩
  have hphase := (encMicro_PHASE s.SI.toNat sk s).trans h.PHASE
  generalize encMicro s.SI.toNat sk s = t at hframe hregs hphase ⊢
  split
  · rename_i hlast
    rw [hlast] at hregs
    refine ⟨by simp [stepsLeft, h.PHASE, hlast], .inr ?_⟩
    rw [encBlock_eq_encUpTo, ← hregs]
    exact blockDone_completeBlock hframe
  · rename_i hlast
    have hnext : (s.SI + 1).toNat = s.SI.toNat + 1 := by bv_omega
    refine ⟨?_, .inl ⟨hphase, ?_, hframe.trans rfl, ?_⟩⟩
    · simp only [stepsLeft, h.PHASE, hphase, hnext, T_eq]
      omega
    · simp only [hnext]
      omega
    · simpa only [hnext] using hregs

/-- `DEC` goes on, or completes with the decrypted block (R124, R125). -/
theorem Decrypting.step {s : State} (h : Decrypting s₀ blk s) :
    ∃ t, micro s = .next t ∧ stepsLeft s = stepsLeft t + 1 ∧
      (Decrypting s₀ blk t ∨ BlockDone s₀ (decBlock 12 (tableWords s₀.S 26) blk) t) := by
  have hi := h.index
  obtain ⟨sk, hsk⟩ := Memory.exists_read_of_full hfull hi
  have hsub := subkey_tableWords hi hsk
  have hframe := h.frame.trans (decMicro_frame s.SI.toNat sk s)
  have hregs := decMicro_registers s.SI.toNat sk s
  have hphase := (decMicro_PHASE s.SI.toNat sk s).trans h.PHASE
  have hrest := h.registers
  refine ⟨_, micro_of_dec h.PHASE hi (h.frame.S_eq ▸ hsk), ?_⟩
  generalize decMicro s.SI.toNat sk s = t at hframe hregs hphase ⊢
  split
  · rename_i hlast
    rw [hlast] at hregs hsub hrest
    rw [decFrom, hsub, ← hregs] at hrest
    refine ⟨by simp [stepsLeft, h.PHASE, hlast], .inr ?_⟩
    rw [decBlock_eq_decFrom, ← hrest]
    exact blockDone_completeBlock hframe
  · rename_i hlast
    have hnext : s.SI.toNat = (s.SI - 1).toNat + 1 := by bv_omega
    rw [hnext] at hregs hsub hrest
    rw [decFrom, hsub, ← hregs] at hrest
    refine ⟨?_, .inl ⟨hphase, ?_, hframe.trans rfl, hrest⟩⟩
    · simp only [stepsLeft, h.PHASE, hphase]
      omega
    · simp only
      omega

/-- An accepted ENCRYPT completes with `ENC_BLOCK` of the table (R117). -/
theorem acceptEncrypt_completes {s : State} (hf : BlockFrame s₀ s) :
    ∃ u, CompletesIn 26 (acceptEncrypt blk s) u ∧
      BlockDone s₀ (encBlock 12 (tableWords s₀.S 26) blk) u :=
  completesIn_of_steps (fun _ => Encrypting.step hfull) (fun _ h => h.PHASE) (encrypting_acceptEncrypt hf)

/-- An accepted DECRYPT completes with `DEC_BLOCK` of the table (R127). -/
theorem acceptDecrypt_completes {s : State} (hf : BlockFrame s₀ s) :
    ∃ u, CompletesIn 26 (acceptDecrypt blk s) u ∧
      BlockDone s₀ (decBlock 12 (tableWords s₀.S 26) blk) u :=
  completesIn_of_steps (fun _ => Decrypting.step hfull) (fun _ h => h.PHASE) (decrypting_acceptDecrypt hf)

end

end Sys2Proof.Machine
end

section
/-! PROOFS. The machine refines the operation level (00_scope.md R15). -/

namespace Sys2Proof.Machine

/-- A response without data (R75). -/
theorem responseFrame_of_no_data {s : State} (h : s.RESP_LEN = 0) :
    responseFrame s = .next (answerFrame (s.RESP_STATUS, [])) := by
  simp [responseFrame, h, readList, answerFrame]

/-- The response of a block command that completed (R75, R115, R125). -/
theorem BlockDone.responseFrame_eq {s₀ s : State} {data : List Byte} (h : BlockDone s₀ data s) :
    responseFrame s = .next (answerFrame (.OK, data)) := by
  have hread : readList .DOUT s.DOUT 0 8 = .next data := by
    rw [← h.length]
    exact readList_of_read data (by simp [h.length]) fun k hk => by
      rw [Nat.zero_add]
      exact h.dout k (h.length ▸ hk)
  simp [responseFrame, h.RESP_LEN, h.RESP_STATUS, hread, answerFrame, h.length]

/-- The command's acceptance `r` in `s`, run to its completion, does what the operation level's result `op` says. -/
def Refines (r : Result State) (op : Engine × Answer) : Prop :=
  ∃ t n u, r = .next t ∧ CompletesIn n t u ∧ engineOf u = op.1 ∧ u.RESP_VALID = true ∧
    responseFrame u = .next (answerFrame op.2)

/-- An error status is the whole answer, and the engine keeps its table (R155). -/
theorem refines_failed (x : Status) (later : List Turn) {s : State} (hp : s.PHASE = .IDLE) :
    Refines (.next (failed x later s)) (engineOf s, (x, [])) :=
  ⟨_, 0, _, rfl, completesIn_zero hp, rfl, rfl, responseFrame_of_no_data rfl⟩

theorem engineOf_of_keyed {s : State} (h : s.KEY_VALID = true) : engineOf s = some (tableWords s.S 26) := if_pos h

theorem engineOf_of_unkeyed {s : State} (h : s.KEY_VALID = false) : engineOf s = none := by
  simp [engineOf, h]

/-- LOADKEY (R91, R103, R151). -/
theorem loadkey_refines {s : State} {key : List Byte} (hp : s.PHASE = .IDLE) (hw : key.length ≤ 255) :
    Refines (exec (.loadkey key) s) (operate (.loadkey key) (engineOf s)) := by
  have hexec := execLoadkey_next.2 ⟨(payloadFits_iff key).2 hw, hp, rfl⟩
  show Refines (execLoadkey key s) (if key.length = 0 then _ else _)
  rw [hexec]
  split
  · exact refines_failed .INVALID_KEY s.schedule hp
  · rename_i hne
    have h1 := Nat.one_le_iff_ne_zero.2 hne
    obtain ⟨u, hu, hdone⟩ := acceptLoadkey_completes { s with RESP_VALID := false } h1 hw
    refine ⟨_, _, u, rfl, hu, ?_, hdone.RESP_VALID, ?_⟩
    · rw [engineOf_of_keyed hdone.KEY_VALID, hdone.table]
      rfl
    · rw [responseFrame_of_no_data hdone.RESP_LEN, hdone.RESP_STATUS]

/-- A block command does what the operation level says when its two checks do, and its acceptance completes with
the block `data` (R111, R121, R157). -/
theorem blockCommand_refines {s : State} {blk data : List Byte} {accept : State → State} {op : Engine × Answer}
    (hp : s.PHASE = .IDLE) (hw : blk.length ≤ 255)
    (hnokey : s.KEY_VALID = false → op = (engineOf s, (.NO_KEY, [])))
    (hlength : s.KEY_VALID = true → blk.length ≠ 8 → op = (engineOf s, (.INVALID_LENGTH, [])))
    (hok : s.KEY_VALID = true → blk.length = 8 → op = (engineOf s, (.OK, data)))
    (haccept : s.KEY_VALID = true →
      ∃ u, CompletesIn 26 (accept { s with RESP_VALID := false }) u ∧ BlockDone s data u) :
    Refines (issueCommand blk s fun s => checkBlock blk s accept) op := by
  rw [issueCommand_idle _ ((payloadFits_iff blk).2 hw) hp]
  rcases checkBlock_cases blk { s with RESP_VALID := false } accept with
    ⟨hk, hc⟩ | ⟨hk, hl, hc⟩ | ⟨hk, hl, hc⟩ <;> rw [hc]
  · rw [hnokey hk]
    exact refines_failed .NO_KEY s.schedule hp
  · rw [hlength hk hl]
    exact refines_failed .INVALID_LENGTH s.schedule hp
  · obtain ⟨u, hu, hdone⟩ := haccept hk
    rw [hok hk hl]
    refine ⟨_, _, u, rfl, hu, ?_, hdone.RESP_VALID, hdone.responseFrame_eq⟩
    rw [engineOf, hdone.frame.KEY_VALID_eq, hdone.frame.S_eq]
    rfl

/-- ENCRYPT (R111, R117). -/
theorem encrypt_refines {s : State} {blk : List Byte} (hfull : s.KEY_VALID = true → Memory.full 26 s.S)
    (hp : s.PHASE = .IDLE) (hw : blk.length ≤ 255) :
    Refines (exec (.encrypt blk) s) (operate (.encrypt blk) (engineOf s)) :=
  blockCommand_refines hp hw
    (fun hk => by rw [engineOf_of_unkeyed hk]; rfl)
    (fun hk hl => by rw [engineOf_of_keyed hk]; exact if_neg hl)
    (fun hk hl => by rw [engineOf_of_keyed hk]; exact if_pos hl)
    (fun hk => acceptEncrypt_completes (hfull hk) rfl)

/-- DECRYPT (R121, R127). -/
theorem decrypt_refines {s : State} {blk : List Byte} (hfull : s.KEY_VALID = true → Memory.full 26 s.S)
    (hp : s.PHASE = .IDLE) (hw : blk.length ≤ 255) :
    Refines (exec (.decrypt blk) s) (operate (.decrypt blk) (engineOf s)) :=
  blockCommand_refines hp hw
    (fun hk => by rw [engineOf_of_unkeyed hk]; rfl)
    (fun hk hl => by rw [engineOf_of_keyed hk]; exact if_neg hl)
    (fun hk hl => by rw [engineOf_of_keyed hk]; exact if_pos hl)
    (fun hk => acceptDecrypt_completes (hfull hk) rfl)

end Sys2Proof.Machine

open Sys2Proof Sys2Proof.Machine

/-- Settles O33: a LOADKEY, an ENCRYPT and a DECRYPT each refine their operation. -/
theorem machineRefinesOperations : Obligations.MachineRefinesOperations := by
  intro s i hinv hp hw
  have hfull : s.KEY_VALID = true → Memory.full 26 s.S := fun hk => (hinv.keyed hk).2
  cases i with
  | loadkey key => exact loadkey_refines hp ((payloadFits_iff key).1 hw)
  | encrypt blk => exact encrypt_refines hfull hp ((payloadFits_iff blk).1 hw)
  | decrypt blk => exact decrypt_refines hfull hp ((payloadFits_iff blk).1 hw)

/-- Settles O10, from the turns' own cases and the idle engine's micro-step. -/
theorem idleEngineWaits : Obligations.IdleEngineWaits := by
  have hempty : ∀ s : State, s.schedule = [] → step s = micro s := fun s h => by simp only [step, takeTurn, h]
  refine ⟨hempty, fun s later h => ?_, fun s hp h => ?_⟩
  · simp only [step, takeTurn, h]
  · rw [hempty s h, micro_of_idle hp]

/-- Settles O38, from the closed form of `MIXN`. -/
theorem mixingCount : Obligations.MixingCount := by
  intro c
  rw [MIXN_eq]
  exact ⟨rfl, fun _ _ => by omega, fun _ _ => by omega⟩
end

section
/-! PROOFS. What one step can do, as one relation, and the properties that every step keeps (10_state.md R36, R37,
R43). -/

namespace Sys2Proof.Machine

/-- Everything one step can do from `s`: the engine moves, a command is issued, a frame with a reserved opcode is,
only the agents' lists change, or reset (R36, R37, R41, R42, R74, R180). -/
inductive StepEffect (s : State) : State → Prop where
  | engine {t : State} (turns : List Turn) (h : micro { s with schedule := turns } = .next t) : StepEffect s t
  | command {t : State} {bytes rest : List Byte} {later : List Turn} {i : Instr}
      (hturn : s.schedule = .issue bytes :: later) (hdecode : decode bytes = .command i rest)
      (hexec : exec i { s with schedule := sendRest rest later } = .next t) : StepEffect s t
  | reserved (turns : List Turn) (hidle : s.PHASE = .IDLE) : StepEffect s (failed .ILLEGAL_COMMAND turns s)
  | agents (turns : List Turn) (told : List Reply) : StepEffect s { s with schedule := turns, replies := told }
  | reset {later : List Turn} (hturn : s.schedule = .reset :: later) :
      StepEffect s (resetEngine { s with schedule := later })

theorem step_effect {s t : State} (h : step s = .next t) : StepEffect s t := by
  rcases step_cases h with ⟨turns, hm⟩ | ⟨bytes, later, hturn, hidle, hissue⟩ | ⟨later, r, rfl⟩ | ⟨later, hturn, rfl⟩
  · exact .engine turns hm
  · rcases (issueBytes_next hidle).1 hissue with ⟨i, rest, hd, he⟩ | ⟨_, _, rest, _, rfl⟩ | ⟨_, rfl⟩
    · exact .command hturn hd he
    · exact .reserved _ hidle
    · exact .agents later s.replies
  · exact .agents later _
  · exact .reset hturn

/-- A property of states that each of the engine's moves, the agents' turns and reset keep. -/
structure KeptByMoves (P : State → Prop) : Prop where
  engine : ∀ {s t}, P s → micro s = .next t → P t
  loadkey : ∀ {s} {key : List Byte}, P s → s.PHASE = .IDLE → 1 ≤ key.length → key.length ≤ 255 →
    P (acceptLoadkey key { s with RESP_VALID := false })
  encrypt : ∀ {s} (blk : List Byte), P s → s.KEY_VALID = true → P (acceptEncrypt blk { s with RESP_VALID := false })
  decrypt : ∀ {s} (blk : List Byte), P s → s.KEY_VALID = true → P (acceptDecrypt blk { s with RESP_VALID := false })
  failed : ∀ {s} (x : Status) (turns : List Turn), P s → s.PHASE = .IDLE → P (failed x turns s)
  agents : ∀ {s} (turns : List Turn) (told : List Reply), P s → P { s with schedule := turns, replies := told }
  reset : ∀ s, P (resetEngine s)

theorem KeptByMoves.exec {P : State → Prop} (h : KeptByMoves P) {i : Instr} {s t : State} (hs : P s)
    (ht : exec i s = .next t) : P t := by
  obtain ⟨hw, hidle, ⟨x, rfl⟩ | ⟨key, rfl, hne, rfl⟩ | ⟨blk, -, hk, -, rfl⟩ | ⟨blk, -, hk, -, rfl⟩⟩ := exec_cases ht
  · exact h.failed x _ hs hidle
  · exact h.loadkey hs hidle (Nat.one_le_iff_ne_zero.2 hne) ((payloadFits_iff key).1 hw)
  · exact h.encrypt blk hs hk
  · exact h.decrypt blk hs hk

theorem KeptByMoves.step {P : State → Prop} (h : KeptByMoves P) {s t : State} (hs : P s)
    (ht : step s = .next t) : P t := by
  cases step_effect ht with
  | engine turns hm => exact h.engine (h.agents turns s.replies hs) hm
  | command _ _ hexec => exact h.exec (h.agents _ s.replies hs) hexec
  | reserved turns hidle => exact h.failed _ turns hs hidle
  | agents turns told => exact h.agents turns told hs
  | reset => exact h.reset _

/-! ### The step on each kind of turn -/

section
variable {s : State} {later : List Turn}

theorem step_of_empty (h : s.schedule = []) : step s = micro s := by simp only [step, takeTurn, h]

theorem step_of_engine (h : s.schedule = .engine :: later) : step s = micro { s with schedule := later } := by
  simp only [step, takeTurn, h]

theorem step_of_issue_idle {bytes : List Byte} (h : s.schedule = .issue bytes :: later) (hp : s.PHASE = .IDLE) :
    step s = issueBytes bytes later s := by
  simp only [step, takeTurn, h, hp, if_true]

theorem step_of_issue_busy {bytes : List Byte} (h : s.schedule = .issue bytes :: later) (hp : s.PHASE ≠ .IDLE) :
    step s = micro s := by
  simp only [step, takeTurn, h, hp, if_false]

theorem step_of_readResp_valid (h : s.schedule = .readResp :: later) (hv : s.RESP_VALID = true) :
    step s = readRespTurn later s := by
  simp only [step, takeTurn, h, hv, if_true]

theorem readRespTurn_of_frame (later : List Turn) {bytes : List Byte} (h : responseFrame s = .next bytes) :
    readRespTurn later s = .next { s with schedule := later, replies := s.replies ++ [.response bytes] } := by
  rw [readRespTurn, h, andThen_of_next]

theorem step_of_readResp_idle (h : s.schedule = .readResp :: later) (hv : s.RESP_VALID = false)
    (hp : s.PHASE = .IDLE) : step s = .fault .respNotReady := by
  simp [step, takeTurn, h, hv, hp]

theorem step_of_readResp_busy (h : s.schedule = .readResp :: later) (hv : s.RESP_VALID = false)
    (hp : s.PHASE ≠ .IDLE) : step s = micro s := by
  simp [step, takeTurn, h, hv, hp]

theorem step_of_readStatus (h : s.schedule = .readStatus :: later) :
    step s = .next { s with schedule := later, replies := s.replies ++ [readStatus s] } := by
  simp only [step, takeTurn, h]

theorem step_of_reset (h : s.schedule = .reset :: later) :
    step s = .next (resetEngine { s with schedule := later }) := by
  simp only [step, takeTurn, h]

end

/-! ### A block command in `IDLE` (R152, R153, R157) -/

section
variable {s : State} {blk : List Byte} (hw : payloadFits blk = true) (hp : s.PHASE = .IDLE)
include hw hp

theorem blockCommand_of_no_key (hk : s.KEY_VALID = false) (accept : State → State) :
    issueCommand blk s (fun s => checkBlock blk s accept) = .next (raise .NO_KEY s) :=
  (issueCommand_idle _ hw hp).trans (if_neg (by simp [hk]))

theorem blockCommand_of_wrong_length (hk : s.KEY_VALID = true) (accept : State → State) (hl : blk.length ≠ 8) :
    issueCommand blk s (fun s => checkBlock blk s accept) = .next (raise .INVALID_LENGTH s) :=
  (issueCommand_idle _ hw hp).trans ((if_pos hk).trans (if_neg hl))

theorem blockCommand_of_block (hk : s.KEY_VALID = true) (accept : State → State) (hl : blk.length = 8) :
    issueCommand blk s (fun s => checkBlock blk s accept) = .next (accept { s with RESP_VALID := false }) :=
  (issueCommand_idle _ hw hp).trans ((if_pos hk).trans (if_pos hl))

end

/-! ### The micro-step in each phase -/

theorem Phase.idle_or_expanding_or_onBlock (p : Phase) : p = .IDLE ∨ p.expanding ∨ p.onBlock := by
  cases p <;> simp [Phase.expanding, Phase.onBlock]

theorem micro_of_packing {s : State} (h : s.PHASE = .K_PACK) : micro s = kPack s := by simp only [micro, h]

theorem micro_of_filling {s : State} (h : s.PHASE = .K_INIT) : micro s = kInit s := by simp only [micro, h]

theorem micro_of_mixing {s : State} (h : s.PHASE = .K_MIX) : micro s = kMix s := by simp only [micro, h]

theorem micro_of_encrypting {s : State} (h : s.PHASE = .ENC) : micro s = encStep s := by simp only [micro, h]

theorem micro_of_decrypting {s : State} (h : s.PHASE = .DEC) : micro s = decStep s := by simp only [micro, h]

/-- R31: how a micro-step moves the sequencer. -/
theorem micro_PHASE {s t : State} (h : micro s = .next t) : t.PHASE = match s.PHASE with
    | .IDLE => .IDLE
    | .K_PACK => if s.CNT.toNat = 1 then .K_INIT else .K_PACK
    | .K_INIT => if s.SI.toNat = 25 then .K_MIX else .K_INIT
    | .K_MIX => if s.CNT.toNat = 1 then .IDLE else .K_MIX
    | .ENC => if s.SI.toNat = 25 then .IDLE else .ENC
    | .DEC => if s.SI.toNat = 0 then .IDLE else .DEC := by
  cases hp : s.PHASE with
  | IDLE =>
    obtain rfl := Host.Outcome.next.inj ((micro_of_idle hp).symm.trans h)
    exact hp
  | K_PACK =>
    obtain ⟨_, _, _, _, _, _, _, rfl⟩ := kPack_next.1 (micro_of_packing hp ▸ h)
    simp only [cnt_sub_one_eq_zero]
    split
    · rfl
    · exact hp
  | K_INIT =>
    obtain ⟨_, _, _, rfl⟩ := kInit_next.1 (micro_of_filling hp ▸ h)
    dsimp only
    split
    · rfl
    · exact hp
  | K_MIX =>
    obtain ⟨_, _, _, _, _, _, _, _, _, _, _, rfl⟩ := kMix_next.1 (micro_of_mixing hp ▸ h)
    simp only [cnt_sub_one_eq_zero]
    split
    · rfl
    · exact hp
  | ENC =>
    obtain ⟨_, _, _, rfl⟩ := encStep_next.1 (micro_of_encrypting hp ▸ h)
    dsimp only
    split
    · rfl
    · exact (encMicro_PHASE _ _ s).trans hp
  | DEC =>
    obtain ⟨_, _, _, rfl⟩ := decStep_next.1 (micro_of_decrypting hp ▸ h)
    dsimp only
    split
    · rfl
    · exact (decMicro_PHASE _ _ s).trans hp

/-! ### The micro-step of a block command -/

theorem encMicro_eq (k : Nat) (sk : Word) (s : State) :
    encMicro k sk s = { s with A := (encUpdate k sk (s.A, s.B)).1, B := (encUpdate k sk (s.A, s.B)).2 } := by
  have hframe : encMicro k sk s = { s with A := (encMicro k sk s).A, B := (encMicro k sk s).B } := by
    unfold encMicro encWhiten encHalfRound
    repeat' split
    all_goals rfl
  rw [hframe, ← encMicro_registers]

theorem decMicro_eq (k : Nat) (sk : Word) (s : State) :
    decMicro k sk s = { s with A := (decUpdate k sk (s.A, s.B)).1, B := (decUpdate k sk (s.A, s.B)).2 } := by
  have hframe : decMicro k sk s = { s with A := (decMicro k sk s).A, B := (decMicro k sk s).B } := by
    unfold decMicro decUnwhiten decHalfRound
    repeat' split
    all_goals rfl
  rw [hframe, ← decMicro_registers]

/-- A block command's move: the working words `a`, `b`, and the next index or, with none, completion. -/
def blockMove (a b : Word) : Option (BitVec 5) → State → State
  | none, s => completeBlock { s with A := a, B := b }
  | some i, s => { s with A := a, B := b, SI := i }

/-- A micro-step in `ENC` or `DEC` is a move that depends on `PHASE`, `SI`, `A`, `B` and the subkey at `SI` only
(R114, R115, R124, R125). -/
theorem micro_of_onBlock {s : State} {sk : Word} (hp : s.PHASE.onBlock) (hi : s.SI.toNat < 26)
    (hsk : Memory.read s.S s.SI.toNat = some sk) :
    ∃ a b next, (∀ i ∈ next, i.toNat < 26) ∧ ∀ t, s.PHASE = t.PHASE → s.SI = t.SI → s.A = t.A → s.B = t.B →
      Memory.read s.S s.SI.toNat = Memory.read t.S s.SI.toNat → micro t = .next (blockMove a b next t) := by
  rcases hp with hp | hp
  · refine ⟨(encUpdate s.SI.toNat sk (s.A, s.B)).1, (encUpdate s.SI.toNat sk (s.A, s.B)).2,
      if s.SI.toNat = 25 then none else some (s.SI + 1), fun i hmem => ?_, fun t htp hti hta htb htk => ?_⟩
    · split at hmem
      · cases hmem
      · cases hmem
        bv_omega
    · rw [hti, hta, htb, micro_of_enc (htp ▸ hp) (hti ▸ hi) (hti ▸ htk ▸ hsk), encMicro_eq]
      split <;> rfl
  · refine ⟨(decUpdate s.SI.toNat sk (s.A, s.B)).1, (decUpdate s.SI.toNat sk (s.A, s.B)).2,
      if s.SI.toNat = 0 then none else some (s.SI - 1), fun i hmem => ?_, fun t htp hti hta htb htk => ?_⟩
    · split at hmem
      · cases hmem
      · cases hmem
        bv_omega
    · rw [hti, hta, htb, micro_of_dec (htp ▸ hp) (hti ▸ hi) (hti ▸ htk ▸ hsk), decMicro_eq]
      split <;> rfl

/-- A micro-step in `ENC` or `DEC` that has a next state makes such a move. -/
theorem eq_blockMove_of_micro {s t : State} (hp : s.PHASE.onBlock) (h : micro s = .next t) :
    ∃ a b next, (∀ i ∈ next, i.toNat < 26) ∧ t = blockMove a b next s := by
  have hread : s.SI.toNat < 26 ∧ ∃ sk, Memory.read s.S s.SI.toNat = some sk := by
    rcases hp with hp | hp
    · obtain ⟨hi, sk, hsk, _⟩ := encStep_next.1 (micro_of_encrypting hp ▸ h)
      exact ⟨hi, sk, hsk⟩
    · obtain ⟨hi, sk, hsk, _⟩ := decStep_next.1 (micro_of_decrypting hp ▸ h)
      exact ⟨hi, sk, hsk⟩
  obtain ⟨hi, sk, hsk⟩ := hread
  obtain ⟨a, b, next, hnext, hmove⟩ := micro_of_onBlock hp hi hsk
  exact ⟨a, b, next, hnext, Host.Outcome.next.inj (h.symm.trans (hmove s rfl rfl rfl rfl rfl))⟩

/-- A micro-step of a block command changes only what R113 to R115 and R123 to R125 name. -/
theorem micro_blockFrame {s t : State} (hp : s.PHASE.onBlock) (h : micro s = .next t) : BlockFrame s t := by
  obtain ⟨a, b, next, _, rfl⟩ := eq_blockMove_of_micro hp h
  cases next <;> rfl

/-! ### What a micro-step does to `S` and `KEY_VALID` -/

/-- R26, R51: what a micro-step does to `S`. -/
theorem micro_S {s t : State} (h : micro s = .next t) : t.S = s.S ∨
    (s.PHASE = .K_INIT ∨ s.PHASE = .K_MIX) ∧ ∃ w, t.S = Memory.write s.S s.SI.toNat w := by
  cases hp : s.PHASE with
  | IDLE =>
    obtain rfl := Host.Outcome.next.inj ((micro_of_idle hp).symm.trans h)
    exact .inl rfl
  | K_PACK =>
    obtain ⟨_, _, _, _, _, _, _, rfl⟩ := kPack_next.1 (micro_of_packing hp ▸ h)
    exact .inl (by split <;> rfl)
  | K_INIT =>
    obtain ⟨_, w, _, rfl⟩ := kInit_next.1 (micro_of_filling hp ▸ h)
    exact .inr ⟨.inl rfl, w, by split <;> rfl⟩
  | K_MIX =>
    obtain ⟨_, _, _, _, _, a, _, _, _, _, _, rfl⟩ := kMix_next.1 (micro_of_mixing hp ▸ h)
    exact .inr ⟨.inr rfl, a, by split <;> rfl⟩
  | ENC => exact .inl (micro_blockFrame (.inl hp) h).S_eq
  | DEC => exact .inl (micro_blockFrame (.inr hp) h).S_eq

/-- R32: what a micro-step does to `KEY_VALID`. -/
theorem micro_KEY_VALID {s t : State} (h : micro s = .next t) : t.KEY_VALID = s.KEY_VALID ∨
    t.KEY_VALID = true ∧ s.PHASE = .K_MIX ∧ s.CNT.toNat = 1 ∧ t.PHASE = .IDLE := by
  cases hp : s.PHASE with
  | IDLE =>
    obtain rfl := Host.Outcome.next.inj ((micro_of_idle hp).symm.trans h)
    exact .inl rfl
  | K_PACK =>
    obtain ⟨_, _, _, _, _, _, _, rfl⟩ := kPack_next.1 (micro_of_packing hp ▸ h)
    exact .inl (by split <;> rfl)
  | K_INIT =>
    obtain ⟨_, _, _, rfl⟩ := kInit_next.1 (micro_of_filling hp ▸ h)
    exact .inl (by split <;> rfl)
  | K_MIX =>
    obtain ⟨_, _, _, _, _, _, _, _, _, _, _, rfl⟩ := kMix_next.1 (micro_of_mixing hp ▸ h)
    split
    · rename_i hlast
      exact .inr ⟨rfl, rfl, cnt_sub_one_eq_zero.1 hlast, rfl⟩
    · exact .inl rfl
  | ENC => exact .inl (micro_blockFrame (.inl hp) h).KEY_VALID_eq
  | DEC => exact .inl (micro_blockFrame (.inr hp) h).KEY_VALID_eq

end Sys2Proof.Machine
end

section
/-! PROOFS. The invariants of 10_state.md R43 and 70_reset_and_hazards.md R184: what they give, and that every step
keeps them. -/

namespace Sys2Proof.Machine

/-! ### The canonical form of the tables -/

theorem Canonical.micro {s t : State} (hc : Canonical s) (h : micro s = .next t) : Canonical t := by
  obtain ⟨hS, hL, hK, hD⟩ := hc
  have block (hp : s.PHASE.onBlock) : Canonical t := by
    obtain ⟨a, b, next, _, rfl⟩ := eq_blockMove_of_micro hp h
    cases next with
    | none => exact ⟨hS, hL, hK, Memory.wf_writeList _ hD (Nat.le_refl 8)⟩
    | some _ => exact ⟨hS, hL, hK, hD⟩
  cases hp : s.PHASE with
  | IDLE =>
    obtain rfl := Host.Outcome.next.inj ((micro_of_idle hp).symm.trans h)
    exact ⟨hS, hL, hK, hD⟩
  | K_PACK =>
    obtain ⟨_, _, _, _, _, _, _, rfl⟩ := kPack_next.1 (micro_of_packing hp ▸ h)
    have hq : (s.CNT.toNat - 1) / 4 < Space.L.size := by have := s.CNT.isLt; simp only [size_L]; omega
    split <;> exact ⟨hS, Memory.wf_write _ hL hq, hK, hD⟩
  | K_INIT =>
    obtain ⟨hi, _, _, rfl⟩ := kInit_next.1 (micro_of_filling hp ▸ h)
    split <;> exact ⟨Memory.wf_write _ hS hi, hL, hK, hD⟩
  | K_MIX =>
    obtain ⟨_, _, hi, _, _, _, _, _, _, _, _, rfl⟩ := kMix_next.1 (micro_of_mixing hp ▸ h)
    split <;> exact ⟨Memory.wf_write _ hS hi, Memory.wf_write _ hL s.LJ.isLt, hK, hD⟩
  | ENC => exact block (.inl hp)
  | DEC => exact block (.inr hp)

theorem Canonical.acceptLoadkey {s : State} (hc : Canonical s) {key : List Byte} (h255 : key.length ≤ 255) :
    Canonical (acceptLoadkey key { s with RESP_VALID := false }) where
  S := hc.S
  L := Memory.wf_writeList _ hc.L (by rw [List.length_replicate, numWords_eq, size_L]; omega)
  KEYBUF := Memory.wf_writeList _ hc.KEYBUF (by rw [size_KEYBUF]; omega)
  DOUT := hc.DOUT

theorem canonical_kept : KeptByMoves Canonical where
  engine := Canonical.micro
  loadkey hc _ _ h255 := hc.acceptLoadkey h255
  encrypt _ hc _ := ⟨hc.S, hc.L, hc.KEYBUF, hc.DOUT⟩
  decrypt _ hc _ := ⟨hc.S, hc.L, hc.KEYBUF, hc.DOUT⟩
  failed _ _ hc _ := ⟨hc.S, hc.L, hc.KEYBUF, hc.DOUT⟩
  agents _ _ hc := ⟨hc.S, hc.L, hc.KEYBUF, hc.DOUT⟩
  reset _ := ⟨rfl, rfl, rfl, rfl⟩

theorem MIXN_bounds {c : Nat} (hc : c ≤ 64) : 78 ≤ Config.MIXN c ∧ Config.MIXN c ≤ 192 := by
  rw [MIXN_eq]
  omega

/-! ### The invariants, unit by unit: an idle engine, a LOADKEY, a block command -/

theorem inv_of_idle {s : State} (hc : Canonical s) (hp : s.PHASE = .IDLE)
    (hkeyed : s.KEY_VALID = true → Memory.full 26 s.S)
    (hresp : s.RESP_VALID = true →
      s.RESP_LEN = 0 ∨ s.RESP_LEN = 8 ∧ s.RESP_STATUS = .OK ∧ Memory.full 8 s.DOUT) : Inv s where
  canonical := hc
  keyed hk := ⟨.inl hp, hkeyed hk⟩
  expanding h := by simp [Phase.expanding, hp] at h
  packing h := by simp [hp] at h
  filling h := by simp [hp] at h
  mixing h := by simp [hp] at h
  onBlock h := by simp [Phase.onBlock, hp] at h
  busy h := absurd hp h
  response := hresp

theorem inv_of_expanding {s : State} {key : List Byte} (hc : Canonical s) (hp : s.PHASE.expanding)
    (hheld : KeyHeld key s) (hresp : s.RESP_VALID = false)
    (hpack : s.PHASE = .K_PACK → 1 ≤ s.CNT.toNat ∧ s.CNT.toNat ≤ s.KLEN.toNat)
    (hfill : s.PHASE = .K_INIT → s.SI.toNat < 26 ∧ Memory.full s.SI.toNat s.S)
    (hmix : s.PHASE = .K_MIX → 1 ≤ s.CNT.toNat ∧ s.CNT.toNat ≤ Config.MIXN s.C.toNat ∧
      s.SI.toNat = (Config.MIXN s.C.toNat - s.CNT.toNat) % 26 ∧
      s.LJ.toNat = (Config.MIXN s.C.toNat - s.CNT.toNat) % s.C.toNat ∧ Memory.full 26 s.S) : Inv s where
  canonical := hc
  keyed hk := by simp [hheld.unkeyed] at hk
  expanding _ := ⟨hheld.unkeyed, hheld.nonempty, hheld.words, hheld.fullL, hheld.fullKey⟩
  packing := hpack
  filling := hfill
  mixing := hmix
  onBlock h := by rcases hp with e | e | e <;> simp [Phase.onBlock, e] at h
  busy _ := hresp
  response hv := by simp [hresp] at hv

theorem inv_of_onBlock {s : State} (hc : Canonical s) (hp : s.PHASE.onBlock) (hkeyed : s.KEY_VALID = true)
    (hfull : Memory.full 26 s.S) (hi : s.SI.toNat < 26) (hresp : s.RESP_VALID = false) : Inv s where
  canonical := hc
  keyed _ := ⟨.inr hp, hfull⟩
  expanding h := by rcases hp with e | e <;> simp [Phase.expanding, e] at h
  packing h := by simp [Phase.onBlock, h] at hp
  filling h := by simp [Phase.onBlock, h] at hp
  mixing h := by simp [Phase.onBlock, h] at hp
  onBlock _ := ⟨hkeyed, hi⟩
  busy _ := hresp
  response hv := by simp [hresp] at hv

section
variable {s : State} (h : Inv s)
include h

theorem Inv.keyHeld (hp : s.PHASE.expanding) : KeyHeld (keyBytes s) s := by
  obtain ⟨hk, hlen, hc, hL, hK⟩ := h.expanding hp
  exact ⟨rfl, hlen, hk, hc, hL, hK⟩

theorem Inv.full_onBlock (hp : s.PHASE.onBlock) : Memory.full 26 s.S :=
  (h.keyed (h.onBlock hp).1).2

theorem Inv.idle_of_response (hv : s.RESP_VALID = true) : s.PHASE = .IDLE := by
  by_contra hp
  simp [h.busy hp] at hv

theorem Inv.unkeyed_expanding (hp : s.PHASE.expanding) : s.KEY_VALID = false := (h.expanding hp).1

theorem Inv.quiet_expanding (hp : s.PHASE.expanding) : s.RESP_VALID = false :=
  h.busy (by rcases hp with e | e | e <;> simp [e])

theorem Inv.quiet_onBlock (hp : s.PHASE.onBlock) : s.RESP_VALID = false :=
  h.busy (by rcases hp with e | e <;> simp [e])

/-- The accesses of `K_PACK` are in range and find values (R97, R141, R184). -/
theorem Inv.packing_reads (hp : s.PHASE = .K_PACK) :
    s.CNT ≠ 0 ∧ s.CNT.toNat - 1 < s.KLEN.toNat ∧ (s.CNT.toNat - 1) / 4 < s.C.toNat ∧ ∃ byte word,
      Memory.read s.KEYBUF (s.CNT.toNat - 1) = some byte ∧
      Memory.read s.L ((s.CNT.toNat - 1) / 4) = some word := by
  obtain ⟨hleft, hbytes⟩ := h.packing hp
  have hheld := h.keyHeld (.inl hp)
  have hk : s.CNT.toNat - 1 < s.KLEN.toNat := by omega
  have hq : (s.CNT.toNat - 1) / 4 < s.C.toNat := by rw [hheld.words, numWords_eq]; omega
  obtain ⟨byte, hb⟩ := Memory.exists_read_of_full hheld.fullKey hk
  obtain ⟨word, hw⟩ := Memory.exists_read_of_full hheld.fullL hq
  exact ⟨fun e => by simp [e] at hleft, hk, hq, byte, word, hb, hw⟩

/-- The word `K_INIT` writes is defined (R98, R184). -/
theorem Inv.filling_value (hp : s.PHASE = .K_INIT) : ∃ w, (s.SI.toNat = 0 ∧ w = Config.P32) ∨
    (s.SI.toNat ≠ 0 ∧ ∃ v, Memory.read s.S (s.SI.toNat - 1) = some v ∧ w = add32 v Config.Q32) := by
  by_cases h0 : s.SI.toNat = 0
  · exact ⟨_, .inl ⟨h0, rfl⟩⟩
  · obtain ⟨v, hv⟩ := Memory.exists_read_of_full (h.filling hp).2 (show s.SI.toNat - 1 < s.SI.toNat by omega)
    exact ⟨_, .inr ⟨h0, v, hv, rfl⟩⟩

/-- The accesses of `K_MIX` are in range and find values (R99, R141, R184). -/
theorem Inv.mixing_reads (hp : s.PHASE = .K_MIX) :
    s.CNT ≠ 0 ∧ s.LJ.toNat < s.C.toNat ∧ s.SI.toNat < 26 ∧ ∃ sv lv,
      Memory.read s.S s.SI.toNat = some sv ∧ Memory.read s.L s.LJ.toNat = some lv := by
  obtain ⟨hleft, _, hsi, hlj, hfull⟩ := h.mixing hp
  have hheld := h.keyHeld (.inr (.inr hp))
  have hi : s.SI.toNat < 26 := hsi ▸ Nat.mod_lt _ (by decide)
  have hj : s.LJ.toNat < s.C.toNat := hlj ▸ Nat.mod_lt _ hheld.words_bounds.1
  obtain ⟨sv, hs⟩ := Memory.exists_read_of_full hfull hi
  obtain ⟨lv, hl⟩ := Memory.exists_read_of_full hheld.fullL hj
  exact ⟨fun e => by simp [e] at hleft, hj, hi, sv, lv, hs, hl⟩

/-- The subkey a block command's micro-step needs is there (R114, R115, R124, R125, R184). -/
theorem Inv.block_read (hp : s.PHASE.onBlock) :
    s.SI.toNat < 26 ∧ ∃ sk, Memory.read s.S s.SI.toNat = some sk :=
  ⟨(h.onBlock hp).2, Memory.exists_read_of_full (h.full_onBlock hp) (h.onBlock hp).2⟩

/-- Every micro-step is defined (R37). -/
theorem Inv.micro_total : ∃ t, micro s = .next t := by
  cases hp : s.PHASE with
  | IDLE => exact ⟨s, micro_of_idle hp⟩
  | K_PACK =>
    obtain ⟨hcnt, hk, hq, byte, word, hb, hw⟩ := h.packing_reads hp
    exact ⟨_, (micro_of_packing hp).trans (kPack_next.2 ⟨hcnt, hk, hq, byte, word, hb, hw, rfl⟩)⟩
  | K_INIT =>
    obtain ⟨w, hw⟩ := h.filling_value hp
    exact ⟨_, (micro_of_filling hp).trans (kInit_next.2 ⟨(h.filling hp).1, w, hw, rfl⟩)⟩
  | K_MIX =>
    obtain ⟨hcnt, hj, hi, sv, lv, hs, hl⟩ := h.mixing_reads hp
    exact ⟨_, (micro_of_mixing hp).trans (kMix_next.2 ⟨hcnt, hj, hi, sv, lv, _, _, hs, hl, rfl, rfl, rfl⟩)⟩
  | ENC =>
    obtain ⟨hi, sk, hsk⟩ := h.block_read (.inl hp)
    exact ⟨_, micro_of_enc hp hi hsk⟩
  | DEC =>
    obtain ⟨hi, sk, hsk⟩ := h.block_read (.inr hp)
    exact ⟨_, micro_of_dec hp hi hsk⟩

/-! ### The micro-steps keep the invariants -/

/-- `K_PACK` (R97). -/
theorem Inv.kPack {t : State} (hp : s.PHASE = .K_PACK) (ht : micro s = .next t) : Inv t := by
  have hc := h.canonical.micro ht
  have hheld := h.keyHeld (.inl hp)
  have hresp := h.quiet_expanding (.inl hp)
  obtain ⟨_, hbytes⟩ := h.packing hp
  obtain ⟨hcnt, _, _, byte, word, _, _, rfl⟩ := kPack_next.1 (micro_of_packing hp ▸ ht)
  have hdec := cnt_sub_one hcnt
  have hL := Memory.full_write ((s.CNT.toNat - 1) / 4) (packByte word byte) hheld.fullL
  revert hc
  split <;> intro hc
  · exact inv_of_expanding hc (.inr (.inl rfl)) (hheld.congr rfl rfl rfl rfl hL) hresp (fun e => by cases e)
      (fun _ => ⟨Nat.zero_lt_succ 25, fun _ hi => absurd hi (Nat.not_lt_zero _)⟩) (fun e => by cases e)
  · rename_i hlast
    rw [cnt_sub_one_eq_zero] at hlast
    exact inv_of_expanding hc (.inl hp) (hheld.congr rfl rfl rfl rfl hL) hresp
      (fun _ => by simp only [hdec]; omega) (fun e => by simp [hp] at e) (fun e => by simp [hp] at e)

/-- `K_INIT` (R98). -/
theorem Inv.kInit {t : State} (hp : s.PHASE = .K_INIT) (ht : micro s = .next t) : Inv t := by
  have hc := h.canonical.micro ht
  have hheld := h.keyHeld (.inr (.inl hp))
  have hresp := h.quiet_expanding (.inr (.inl hp))
  obtain ⟨_, hfull⟩ := h.filling hp
  obtain ⟨hi, w, _, rfl⟩ := kInit_next.1 (micro_of_filling hp ▸ ht)
  have hS := Memory.full_write_succ w hfull
  revert hc
  split <;> intro hc
  · rename_i hlast
    rw [hlast] at hS
    obtain ⟨hmin, hmax⟩ := MIXN_bounds hheld.words_bounds.2
    have hcount : (BitVec.ofNat 8 (Config.MIXN s.C.toNat)).toNat = Config.MIXN s.C.toNat := by
      rw [BitVec.toNat_ofNat, Nat.mod_eq_of_lt (by omega)]
    refine inv_of_expanding hc (.inr (.inr rfl)) (hheld.congr rfl rfl rfl rfl hheld.fullL) hresp (fun e => by cases e)
      (fun e => by cases e) fun _ => ?_
    simp only [hcount, hlast, Nat.sub_self, Nat.zero_mod]
    exact ⟨by omega, Nat.le_refl _, rfl, rfl, hS⟩
  · rename_i hlast
    have hnext : (s.SI + 1).toNat = s.SI.toNat + 1 := by bv_omega
    refine inv_of_expanding hc (.inr (.inl hp)) (hheld.congr rfl rfl rfl rfl hheld.fullL) hresp
      (fun e => by simp [hp] at e) (fun _ => ?_) (fun e => by simp [hp] at e)
    simp only [hnext]
    exact ⟨by omega, hS⟩

/-- `K_MIX` (R99, R100). -/
theorem Inv.kMix {t : State} (hp : s.PHASE = .K_MIX) (ht : micro s = .next t) : Inv t := by
  have hc := h.canonical.micro ht
  have hheld := h.keyHeld (.inr (.inr hp))
  have hresp := h.quiet_expanding (.inr (.inr hp))
  obtain ⟨hleft, hcount, hsi, hlj, hfull⟩ := h.mixing hp
  obtain ⟨hcnt, _, _, sv, lv, a, b, _, _, _, _, rfl⟩ := kMix_next.1 (micro_of_mixing hp ▸ ht)
  rw [T_eq] at hsi
  have hdec := cnt_sub_one hcnt
  have hS := Memory.full_write s.SI.toNat a hfull
  have hL := Memory.full_write s.LJ.toNat b hheld.fullL
  revert hc
  split <;> intro hc
  · exact inv_of_idle hc rfl (fun _ => hS) (fun _ => .inl rfl)
  · rename_i hlast
    rw [cnt_sub_one_eq_zero] at hlast
    obtain ⟨hc1, hc64⟩ := hheld.words_bounds
    have hdone : Config.MIXN s.C.toNat - (s.CNT.toNat - 1) = Config.MIXN s.C.toNat - s.CNT.toNat + 1 := by omega
    have hj := Nat.mod_lt (s.LJ.toNat + 1) hc1
    refine inv_of_expanding hc (.inr (.inr hp)) (hheld.congr rfl rfl rfl rfl hL) hresp
      (fun e => by simp [hp] at e) (fun e => by simp [hp] at e) fun _ => ?_
    simp only [hdec, hdone, BitVec.toNat_ofNat]
    refine ⟨by omega, by omega, by omega, ?_, hS⟩
    rw [Nat.mod_eq_of_lt (by omega), hlj, Nat.mod_add_mod]

/-- `ENC` and `DEC` (R114, R115, R124, R125). -/
theorem Inv.block {t : State} (hp : s.PHASE.onBlock) (ht : micro s = .next t) : Inv t := by
  have hc := h.canonical.micro ht
  obtain ⟨hkeyed, _⟩ := h.onBlock hp
  obtain ⟨a, b, next, hnext, rfl⟩ := eq_blockMove_of_micro hp ht
  cases next with
  | none =>
    exact inv_of_idle hc rfl (fun _ => h.full_onBlock hp)
      (fun _ => .inr ⟨rfl, rfl, Memory.full_writeList s.DOUT (blockBytes a b)⟩)
  | some i => exact inv_of_onBlock hc hp hkeyed (h.full_onBlock hp) (hnext i rfl) (h.quiet_onBlock hp)

theorem Inv.micro {t : State} (ht : micro s = .next t) : Inv t := by
  rcases s.PHASE.idle_or_expanding_or_onBlock with hp | (hp | hp | hp) | hp
  · exact Host.Outcome.next.inj ((micro_of_idle hp).symm.trans ht) ▸ h
  · exact h.kPack hp ht
  · exact h.kInit hp ht
  · exact h.kMix hp ht
  · exact h.block hp ht

end

/-- Acceptance of a LOADKEY (R96). -/
theorem inv_acceptLoadkey {s : State} {key : List Byte} (hc : Canonical s) (h1 : 1 ≤ key.length)
    (h255 : key.length ≤ 255) : Inv (acceptLoadkey key { s with RESP_VALID := false }) := by
  have hpack := packing_acceptLoadkey { s with RESP_VALID := false } h1 h255
  exact inv_of_expanding (hc.acceptLoadkey h255) (.inl rfl) hpack.toKeyHeld rfl
    (fun _ => ⟨hpack.left, hpack.bytes⟩) (fun e => by cases e) (fun e => by cases e)

theorem inv_kept : KeptByMoves Inv where
  engine h ht := h.micro ht
  loadkey h _ h1 h255 := inv_acceptLoadkey h.canonical h1 h255
  encrypt blk h hk := inv_of_onBlock (canonical_kept.encrypt blk h.canonical hk) (.inl rfl) hk (h.keyed hk).2
    (Nat.zero_lt_succ 25) rfl
  decrypt blk h hk := inv_of_onBlock (canonical_kept.decrypt blk h.canonical hk) (.inr rfl) hk (h.keyed hk).2
    (Nat.lt_succ_self 25) rfl
  failed x turns h hp := inv_of_idle (canonical_kept.failed x turns h.canonical hp) hp (fun hk => (h.keyed hk).2)
    (fun _ => .inl rfl)
  agents turns told h := ⟨canonical_kept.agents turns told h.canonical, h.keyed, h.expanding, h.packing, h.filling,
    h.mixing, h.onBlock, h.busy, h.response⟩
  reset s := inv_of_idle (canonical_kept.reset s) rfl (fun hk => by cases hk) (fun hv => by cases hv)

/-! ### The response and the step are defined -/

theorem Memory.exists_list_of_full {α : Type} {n : Nat} {m : Memory α} (h : Memory.full n m) :
    ∃ vs : List α, vs.length = n ∧ ∀ k, k < n → Memory.read m k = vs[k]? := by
  refine ⟨List.ofFn fun k : Fin n => (Memory.read m k).get (h k k.isLt), List.length_ofFn, fun k hk => ?_⟩
  simp [hk]

/-- A response with data (R41, R75). -/
theorem responseFrame_of_data {s : State} {data : List Byte} (hlen : s.RESP_LEN = 8) (hdata : data.length = 8)
    (hread : ∀ k, k < 8 → Memory.read s.DOUT k = data[k]?) :
    responseFrame s = .next (answerFrame (s.RESP_STATUS, data)) := by
  have hlist : readList .DOUT s.DOUT 0 8 = .next data := by
    rw [← hdata]
    exact readList_of_read data (by simp [hdata]) fun k hk => by rw [Nat.zero_add, hread k (hdata ▸ hk)]
  simp [responseFrame, hlen, hlist, answerFrame, hdata]

/-- A response can be read, and is the same in every state with the same response registers and data (R41, R184). -/
theorem Inv.responseFrame_agree {s t : State} (h : Inv s) (hv : s.RESP_VALID = true)
    (hstatus : s.RESP_STATUS = t.RESP_STATUS) (hlen : s.RESP_LEN = t.RESP_LEN)
    (hdout : s.RESP_LEN = 8 → Memory.agree 8 s.DOUT t.DOUT) :
    ∃ bytes, responseFrame s = .next bytes ∧ responseFrame t = .next bytes := by
  rcases h.response hv with h0 | ⟨h8, _, hfull⟩
  · exact ⟨_, responseFrame_of_no_data h0, hstatus ▸ responseFrame_of_no_data (hlen ▸ h0)⟩
  · obtain ⟨data, hdata, hread⟩ := Memory.exists_list_of_full hfull
    exact ⟨_, responseFrame_of_data h8 hdata hread, hstatus ▸ responseFrame_of_data (hlen ▸ h8) hdata
      fun k hk => (hdout h8 k hk).symm.trans (hread k hk)⟩

/-- Issue in `IDLE` always has a next state (R36, R74, R189). -/
theorem issueBytes_total {s : State} (bytes : List Byte) (later : List Turn) (hp : s.PHASE = .IDLE) :
    ∃ t, issueBytes bytes later s = .next t := by
  cases hd : decode bytes with
  | command i rest =>
    obtain ⟨t, ht⟩ := exec_idle_total (s := { s with schedule := sendRest rest later }) (decode_wf hd) hp
    exact ⟨t, (issueBytes_next hp).2 (.inl ⟨i, rest, hd, ht⟩)⟩
  | reserved op pay rest => exact ⟨_, (issueBytes_next hp).2 (.inr (.inl ⟨op, pay, rest, hd, rfl⟩))⟩
  | incomplete => exact ⟨_, (issueBytes_next hp).2 (.inr (.inr ⟨hd, rfl⟩))⟩

/-- The one step that is not enabled is the host's read of a response that an idle engine does not have (R41,
93 U10). -/
theorem Inv.step_total {s : State} (h : Inv s) : (∃ t, step s = .next t) ∨
    (step s = .fault .respNotReady ∧ s.PHASE = .IDLE ∧ s.RESP_VALID = false ∧
      s.schedule.head? = some .readResp) := by
  cases hsched : s.schedule with
  | nil => exact .inl (step_of_empty hsched ▸ h.micro_total)
  | cons turn later =>
    cases turn with
    | engine => exact .inl (step_of_engine hsched ▸ (inv_kept.agents later s.replies h).micro_total)
    | issue bytes =>
      by_cases hp : s.PHASE = .IDLE
      · exact .inl (step_of_issue_idle hsched hp ▸ issueBytes_total bytes later hp)
      · exact .inl (step_of_issue_busy hsched hp ▸ h.micro_total)
    | readResp =>
      cases hv : s.RESP_VALID with
      | true =>
        obtain ⟨bytes, hbytes, _⟩ := h.responseFrame_agree hv rfl rfl fun _ _ _ => rfl
        exact .inl ⟨_, (step_of_readResp_valid hsched hv).trans (readRespTurn_of_frame later hbytes)⟩
      | false =>
        by_cases hp : s.PHASE = .IDLE
        · exact .inr ⟨step_of_readResp_idle hsched hv hp, hp, rfl, rfl⟩
        · exact .inl (step_of_readResp_busy hsched hv hp ▸ h.micro_total)
    | readStatus => exact .inl ⟨_, step_of_readStatus hsched⟩
    | reset => exact .inl ⟨_, step_of_reset hsched⟩

end Sys2Proof.Machine
end

section
/-! PROOFS. Every step keeps the tables on the way to `EXPAND` of the key (10_state.md R43 item 2), and runs from
reset stay safe. -/

namespace Sys2Proof.Machine

/-- `S` is `EXPAND` of some key (R43 item 2). -/
def Expanded (s : State) : Prop :=
  ∃ key : List Byte, 1 ≤ key.length ∧ key.length ≤ 255 ∧ tableWords s.S 26 = expand 12 key

theorem onTrack_of_not_expanding {s : State} (hp : ¬ s.PHASE.expanding) (hk : s.KEY_VALID = true → Expanded s) :
    OnTrack s where
  keyed := hk
  packing h := absurd (.inl h) hp
  filling h := absurd (.inr (.inl h)) hp
  mixing h := absurd (.inr (.inr h)) hp

/-- A safe state of a LOADKEY is a state of the LOADKEY of the key in `KEYBUF`. -/
theorem Safe.building {s : State} (h : Safe s) (hp : s.PHASE.expanding) : Building (keyBytes s) s := by
  have hheld := h.inv.keyHeld hp
  rcases hp with hp | hp | hp
  · obtain ⟨hleft, hbytes⟩ := h.inv.packing hp
    exact .inl ⟨hheld, hp, hleft, hbytes, h.track.packing hp⟩
  · obtain ⟨hi, hfull⟩ := h.inv.filling hp
    obtain ⟨hpacked, hfilled⟩ := h.track.filling hp
    exact .inr (.inl ⟨hheld, hp, hi, hfull, hpacked, hfilled⟩)
  · obtain ⟨hleft, hcount, _, _, hfull⟩ := h.inv.mixing hp
    obtain ⟨_, hj, hi, _⟩ := h.inv.mixing_reads hp
    exact .inr (.inr ⟨hheld, hp, hleft, hcount, hi, hj, hfull, h.track.mixing hp⟩)

theorem Packing.onTrack {key : List Byte} {s : State} (h : Packing key s) : OnTrack s where
  keyed hk := by simp [h.unkeyed] at hk
  packing _ := h.holds.symm ▸ h.track
  filling hp := by simp [h.PHASE] at hp
  mixing hp := by simp [h.PHASE] at hp

theorem Filling.onTrack {key : List Byte} {s : State} (h : Filling key s) : OnTrack s where
  keyed hk := by simp [h.unkeyed] at hk
  packing hp := by simp [h.PHASE] at hp
  filling _ := ⟨h.holds.symm ▸ h.packed, h.track⟩
  mixing hp := by simp [h.PHASE] at hp

theorem Mixing.onTrack {key : List Byte} {s : State} (h : Mixing key s) : OnTrack s where
  keyed hk := by simp [h.unkeyed] at hk
  packing hp := by simp [h.PHASE] at hp
  filling hp := by simp [h.PHASE] at hp
  mixing _ := h.holds.symm ▸ h.track

theorem Building.onTrack {key : List Byte} {s : State} (h : Building key s) : OnTrack s := by
  rcases h with h | h | h
  · exact h.onTrack
  · exact h.onTrack
  · exact h.onTrack

theorem Safe.micro_onTrack {s t : State} (h : Safe s) (ht : micro s = .next t) : OnTrack t := by
  rcases s.PHASE.idle_or_expanding_or_onBlock with hp | hp | hp
  · obtain rfl := Host.Outcome.next.inj ((micro_of_idle hp).symm.trans ht)
    exact h.track
  · obtain ⟨u, hu, -, hb | hdone⟩ := (h.building hp).step <;>
      obtain rfl := Host.Outcome.next.inj (hu.symm.trans ht)
    · exact hb.onTrack
    · refine onTrack_of_not_expanding (by simp [Phase.expanding, hdone.PHASE]) fun _ =>
        ⟨keyBytes s, ?_, ?_, hdone.table⟩
      · rw [keyBytes_length]
        exact (h.inv.keyHeld hp).nonempty
      · rw [keyBytes_length]
        exact Nat.le_of_lt_succ s.KLEN.isLt
  · have hframe := micro_blockFrame hp ht
    refine onTrack_of_not_expanding ?_ fun hk => ?_
    · rw [micro_PHASE ht]
      rcases hp with e | e <;> simp only [e] <;> split <;> simp [Phase.expanding]
    · rw [Expanded, hframe.S_eq]
      exact h.track.keyed (hframe.KEY_VALID_eq ▸ hk)

theorem safe_kept : KeptByMoves Safe where
  engine h ht := ⟨h.inv.micro ht, h.micro_onTrack ht⟩
  loadkey h hp h1 h255 := ⟨inv_kept.loadkey h.inv hp h1 h255, (packing_acceptLoadkey _ h1 h255).onTrack⟩
  encrypt blk h hk := ⟨inv_kept.encrypt blk h.inv hk,
    onTrack_of_not_expanding (by simp [Phase.expanding]) h.track.keyed⟩
  decrypt blk h hk := ⟨inv_kept.decrypt blk h.inv hk,
    onTrack_of_not_expanding (by simp [Phase.expanding]) h.track.keyed⟩
  failed x turns h hp := ⟨inv_kept.failed x turns h.inv hp,
    onTrack_of_not_expanding (by simp [Phase.expanding, hp]) h.track.keyed⟩
  agents turns told h := ⟨inv_kept.agents turns told h.inv, h.track.keyed, h.track.packing, h.track.filling,
    h.track.mixing⟩
  reset s := ⟨inv_kept.reset s, onTrack_of_not_expanding (by simp [Phase.expanding]) fun hk => by cases hk⟩

/-- The machine after reset is the engine's reset with the agents' turns placed (R181). -/
theorem safe_start (turns : List Turn) : Safe (start turns) := safe_kept.reset (start turns)

/-- Runs from a safe state stay safe. -/
theorem Safe.run {s t : State} {k : Nat} (h : Safe s) (hrun : Host.Core.run Sys2Proof.core k s = .next t) : Safe t := by
  induction k generalizing s with
  | zero => exact Host.Outcome.next.inj hrun ▸ h
  | succ k ih =>
    simp only [Host.Core.run] at hrun
    split at hrun
    · rename_i u hu
      exact ih (safe_kept.step h hu) hrun
    · cases hrun
    · cases hrun

theorem Reachable.safe {s : State} (h : Reachable s) : Safe s := by
  obtain ⟨turns, k, hrun⟩ := h
  exact (safe_start turns).run hrun

end Sys2Proof.Machine
end

section
/-! PROOFS. What is dead is unobservable: agreement on what is live is kept by every step (10_state.md R33, R34). -/

namespace Sys2Proof.Machine

/-! ### Agreement, unit by unit: an idle engine, a LOADKEY, a block command -/

section
variable {s t : State} (hphase : s.PHASE = t.PHASE) (hsched : s.schedule = t.schedule) (htold : s.replies = t.replies)
include hphase hsched htold

theorem sameLive_of_idle (hp : s.PHASE = .IDLE) (hkey : s.KEY_VALID = t.KEY_VALID)
    (hvalid : s.RESP_VALID = t.RESP_VALID)
    (hresp : s.RESP_VALID = true → s.RESP_STATUS = t.RESP_STATUS ∧ s.RESP_LEN = t.RESP_LEN ∧
      (s.RESP_LEN = 8 → Memory.agree 8 s.DOUT t.DOUT))
    (hS : s.KEY_VALID = true → Memory.agree 26 s.S t.S) : SameLive s t where
  PHASE := hphase
  KEY_VALID := hkey
  RESP_VALID := hvalid
  schedule := hsched
  replies := htold
  response := hresp
  keyed := hS
  expanding h := by simp [Phase.expanding, hp] at h
  packing h := by simp [hp] at h
  filling h := by simp [hp] at h
  mixing h := by simp [hp] at h
  onBlock h := by simp [Phase.onBlock, hp] at h

theorem sameLive_of_expanding (hs : Inv s) (ht : Inv t) (hp : s.PHASE.expanding)
    (hL : s.C = t.C ∧ Memory.agree s.C.toNat s.L t.L)
    (hpack : s.PHASE = .K_PACK → s.CNT = t.CNT ∧ Memory.agree s.CNT.toNat s.KEYBUF t.KEYBUF)
    (hfill : s.PHASE = .K_INIT → s.SI = t.SI ∧ Memory.agree s.SI.toNat s.S t.S)
    (hmix : s.PHASE = .K_MIX → s.SI = t.SI ∧ s.LJ = t.LJ ∧ s.CNT = t.CNT ∧ s.A = t.A ∧ s.B = t.B ∧
      Memory.agree 26 s.S t.S) : SameLive s t where
  PHASE := hphase
  KEY_VALID := (hs.unkeyed_expanding hp).trans (ht.unkeyed_expanding (hphase ▸ hp)).symm
  RESP_VALID := (hs.quiet_expanding hp).trans (ht.quiet_expanding (hphase ▸ hp)).symm
  schedule := hsched
  replies := htold
  response hv := by simp [hs.quiet_expanding hp] at hv
  keyed hk := by simp [hs.unkeyed_expanding hp] at hk
  expanding _ := hL
  packing := hpack
  filling := hfill
  mixing := hmix
  onBlock h := by rcases hp with e | e | e <;> simp [Phase.onBlock, e] at h

theorem sameLive_of_onBlock (hs : Inv s) (ht : Inv t) (hp : s.PHASE.onBlock) (hS : Memory.agree 26 s.S t.S)
    (hregs : s.SI = t.SI ∧ s.A = t.A ∧ s.B = t.B) : SameLive s t where
  PHASE := hphase
  KEY_VALID := (hs.onBlock hp).1.trans (ht.onBlock (hphase ▸ hp)).1.symm
  RESP_VALID := (hs.quiet_onBlock hp).trans (ht.quiet_onBlock (hphase ▸ hp)).symm
  schedule := hsched
  replies := htold
  response hv := by simp [hs.quiet_onBlock hp] at hv
  keyed _ := hS
  expanding h := by rcases hp with e | e <;> simp [Phase.expanding, e] at h
  packing h := by simp [Phase.onBlock, h] at hp
  filling h := by simp [Phase.onBlock, h] at hp
  mixing h := by simp [Phase.onBlock, h] at hp
  onBlock _ := hregs

end

theorem SameLive.agents {s t : State} (h : SameLive s t) {turns turns' : List Turn} {told told' : List Reply}
    (hturns : turns = turns') (htold : told = told') :
    SameLive { s with schedule := turns, replies := told } { t with schedule := turns', replies := told' } :=
  ⟨h.PHASE, h.KEY_VALID, h.RESP_VALID, hturns, htold, h.response, h.keyed, h.expanding, h.packing, h.filling, h.mixing,
    h.onBlock⟩

theorem SameLive.raise {s t : State} (h : SameLive s t) (hp : s.PHASE = .IDLE) (x : Status) :
    SameLive (raise x s) (raise x t) :=
  sameLive_of_idle h.PHASE h.schedule h.replies hp h.KEY_VALID rfl (fun _ => ⟨rfl, rfl, fun e => by cases e⟩) h.keyed

theorem sameLive_resetEngine {s t : State} (hturns : s.schedule = t.schedule) (htold : s.replies = t.replies) :
    SameLive (resetEngine s) (resetEngine t) :=
  sameLive_of_idle rfl hturns htold rfl rfl rfl (fun hv => by cases hv) (fun hk => by cases hk)

/-! ### The micro-steps -/

section
variable {s t : State} (hs : Inv s) (ht : Inv t) (h : SameLive s t)
include hs ht h

/-- `K_PACK` reads the live byte and word (R97). -/
theorem SameLive.kPack (hp : s.PHASE = .K_PACK) :
    ∃ s' t', micro s = .next s' ∧ micro t = .next t' ∧ SameLive s' t' := by
  have hp' : t.PHASE = .K_PACK := h.PHASE ▸ hp
  obtain ⟨hC, hL⟩ := h.expanding (.inl hp)
  obtain ⟨hCNT, hK⟩ := h.packing hp
  obtain ⟨hcnt, hk, hq, byte, word, hb, hw⟩ := hs.packing_reads hp
  obtain ⟨hcnt', hk', hq', _⟩ := ht.packing_reads hp'
  have hdec := cnt_sub_one hcnt
  have hpos : 1 ≤ s.CNT.toNat := (hs.packing hp).1
  have hb' := (hK (s.CNT.toNat - 1) (by omega)).symm.trans hb
  have hw' := (hL ((s.CNT.toNat - 1) / 4) hq).symm.trans hw
  have hstep := (micro_of_packing hp).trans (kPack_next.2 ⟨hcnt, hk, hq, byte, word, hb, hw, rfl⟩)
  have hstep' := (micro_of_packing hp').trans
    (kPack_next.2 ⟨hcnt', hk', hq', byte, word, hCNT ▸ hb', hCNT ▸ hw', rfl⟩)
  refine ⟨_, _, hstep, hstep', ?_⟩
  have hinv := hs.micro hstep
  have hinv' := ht.micro hstep'
  rw [← hCNT] at hinv' ⊢
  have hL' := Memory.agree_write ((s.CNT.toNat - 1) / 4) (packByte word byte) hL
  revert hinv hinv'
  split <;> intro hinv hinv'
  · exact sameLive_of_expanding rfl h.schedule h.replies hinv hinv' (.inr (.inl rfl)) ⟨hC, hL'⟩ (fun e => by cases e)
      (fun _ => ⟨rfl, fun _ hj => absurd hj (Nat.not_lt_zero _)⟩) (fun e => by cases e)
  · refine sameLive_of_expanding h.PHASE h.schedule h.replies hinv hinv' (.inl hp) ⟨hC, hL'⟩
      (fun _ => ⟨rfl, fun j hj => hK j ?_⟩) (fun e => by simp [hp] at e) (fun e => by simp [hp] at e)
    simp only [hdec] at hj
    omega

/-- `K_INIT` reads the live word before (R98). -/
theorem SameLive.kInit (hp : s.PHASE = .K_INIT) :
    ∃ s' t', micro s = .next s' ∧ micro t = .next t' ∧ SameLive s' t' := by
  have hp' : t.PHASE = .K_INIT := h.PHASE ▸ hp
  obtain ⟨hC, hL⟩ := h.expanding (.inr (.inl hp))
  obtain ⟨hSI, hS⟩ := h.filling hp
  have hi : s.SI.toNat < 26 := (hs.filling hp).1
  obtain ⟨w, hw⟩ := hs.filling_value hp
  have hw' : (s.SI.toNat = 0 ∧ w = Config.P32) ∨
      (s.SI.toNat ≠ 0 ∧ ∃ v, Memory.read t.S (s.SI.toNat - 1) = some v ∧ w = add32 v Config.Q32) := by
    rcases hw with hw | ⟨h0, v, hv, hw⟩
    · exact .inl hw
    · exact .inr ⟨h0, v, (hS _ (by omega)).symm.trans hv, hw⟩
  have hstep := (micro_of_filling hp).trans (kInit_next.2 ⟨hi, w, hw, rfl⟩)
  have hstep' := (micro_of_filling hp').trans (kInit_next.2 ⟨hSI ▸ hi, w, hSI ▸ hw', rfl⟩)
  refine ⟨_, _, hstep, hstep', ?_⟩
  have hinv := hs.micro hstep
  have hinv' := ht.micro hstep'
  rw [← hSI, ← hC] at hinv' ⊢
  have hS' := Memory.agree_write_succ w hS
  revert hinv hinv'
  split <;> intro hinv hinv'
  · rename_i hlast
    rw [hlast] at hS'
    exact sameLive_of_expanding rfl h.schedule h.replies hinv hinv' (.inr (.inr rfl)) ⟨rfl, hL⟩ (fun e => by cases e)
      (fun e => by cases e) (fun _ => ⟨rfl, rfl, rfl, rfl, rfl, by simpa only [hlast] using hS'⟩)
  · have hnext : (s.SI + 1).toNat = s.SI.toNat + 1 := by bv_omega
    exact sameLive_of_expanding h.PHASE h.schedule h.replies hinv hinv' (.inr (.inl hp)) ⟨rfl, hL⟩
      (fun e => by simp [hp] at e) (fun _ => ⟨rfl, by simpa only [hnext] using hS'⟩) (fun e => by simp [hp] at e)

/-- `K_MIX` reads the live words and accumulators (R99, R100). -/
theorem SameLive.kMix (hp : s.PHASE = .K_MIX) :
    ∃ s' t', micro s = .next s' ∧ micro t = .next t' ∧ SameLive s' t' := by
  have hp' : t.PHASE = .K_MIX := h.PHASE ▸ hp
  obtain ⟨hC, hL⟩ := h.expanding (.inr (.inr hp))
  obtain ⟨hSI, hLJ, hCNT, hA, hB, hS⟩ := h.mixing hp
  obtain ⟨hcnt, hj, hi, sv, lv, hsv, hlv⟩ := hs.mixing_reads hp
  obtain ⟨hcnt', hj', hi', _⟩ := ht.mixing_reads hp'
  have hsv' := (hS _ hi).symm.trans hsv
  have hlv' := (hL _ hj).symm.trans hlv
  have hstep := (micro_of_mixing hp).trans (kMix_next.2 ⟨hcnt, hj, hi, sv, lv, _, _, hsv, hlv, rfl, rfl, rfl⟩)
  have hstep' := (micro_of_mixing hp').trans (kMix_next.2
    ⟨hcnt', hj', hi', sv, lv, _, _, hSI ▸ hsv', hLJ ▸ hlv', rfl, rfl, rfl⟩)
  refine ⟨_, _, hstep, hstep', ?_⟩
  have hinv := hs.micro hstep
  have hinv' := ht.micro hstep'
  rw [← hSI, ← hLJ, ← hCNT, ← hA, ← hB, ← hC] at hinv' ⊢
  have hS' := Memory.agree_write s.SI.toNat (rotl (add32 (add32 sv s.A) s.B) 3) hS
  revert hinv hinv'
  split <;> intro hinv hinv'
  · exact sameLive_of_idle rfl h.schedule h.replies rfl rfl rfl
      (fun _ => ⟨rfl, rfl, fun e => by cases e⟩) (fun _ => hS')
  · exact sameLive_of_expanding h.PHASE h.schedule h.replies hinv hinv' (.inr (.inr hp))
      ⟨rfl, Memory.agree_write _ _ hL⟩ (fun e => by simp [hp] at e) (fun e => by simp [hp] at e)
      (fun _ => ⟨rfl, rfl, rfl, rfl, rfl, hS'⟩)

/-- `ENC` and `DEC` read the live subkey and working words (R114, R115, R124, R125). -/
theorem SameLive.block (hp : s.PHASE.onBlock) :
    ∃ s' t', micro s = .next s' ∧ micro t = .next t' ∧ SameLive s' t' := by
  obtain ⟨hkeyed, _⟩ := hs.onBlock hp
  obtain ⟨hi, sk, hsk⟩ := hs.block_read hp
  obtain ⟨hSI, hA, hB⟩ := h.onBlock hp
  have hS := h.keyed hkeyed
  obtain ⟨a, b, next, _, hmove⟩ := micro_of_onBlock hp hi hsk
  have hstep := hmove s rfl rfl rfl rfl rfl
  have hstep' := hmove t h.PHASE hSI hA hB (hS _ hi)
  refine ⟨_, _, hstep, hstep', ?_⟩
  have hinv := hs.micro hstep
  have hinv' := ht.micro hstep'
  cases next with
  | none =>
    exact sameLive_of_idle rfl h.schedule h.replies rfl h.KEY_VALID rfl
      (fun _ => ⟨rfl, rfl, fun _ => Memory.agree_writeList s.DOUT t.DOUT (blockBytes a b)⟩) (fun _ => hS)
  | some i =>
    exact sameLive_of_onBlock h.PHASE h.schedule h.replies hinv hinv' hp hS ⟨rfl, rfl, rfl⟩

theorem SameLive.micro : ∃ s' t', micro s = .next s' ∧ micro t = .next t' ∧ SameLive s' t' := by
  rcases s.PHASE.idle_or_expanding_or_onBlock with hp | (hp | hp | hp) | hp
  · exact ⟨s, t, micro_of_idle hp, micro_of_idle (h.PHASE ▸ hp), h⟩
  · exact h.kPack hs ht hp
  · exact h.kInit hs ht hp
  · exact h.kMix hs ht hp
  · exact h.block hs ht hp

/-! ### The commands -/

/-- What acceptance of a LOADKEY leaves live is what the key gives (R96). -/
theorem SameLive.acceptLoadkey (hp : s.PHASE = .IDLE) {key : List Byte} (h1 : 1 ≤ key.length)
    (h255 : key.length ≤ 255) :
    SameLive (acceptLoadkey key { s with RESP_VALID := false })
      (acceptLoadkey key { t with RESP_VALID := false }) := by
  have hinv := inv_kept.loadkey hs hp h1 h255
  have hinv' := inv_kept.loadkey ht (h.PHASE ▸ hp) h1 h255
  have hlen : (BitVec.ofNat 8 key.length).toNat = key.length := by
    rw [BitVec.toNat_ofNat, Nat.mod_eq_of_lt (by omega)]
  have hwords : (BitVec.ofNat 7 (Config.numWords key.length)).toNat = Config.numWords key.length := by
    rw [BitVec.toNat_ofNat, Nat.mod_eq_of_lt (by rw [numWords_eq]; omega)]
  refine sameLive_of_expanding rfl h.schedule h.replies hinv hinv' (.inl rfl) ⟨rfl, ?_⟩ (fun _ => ⟨rfl, ?_⟩)
    (fun e => by cases e) (fun e => by cases e)
  · have hL := Memory.agree_writeList s.L t.L (List.replicate (Config.numWords key.length) (0 : Word))
    simpa only [acceptLoadkey_C, acceptLoadkey_L, hwords, List.length_replicate] using hL
  · simpa only [acceptLoadkey_CNT, acceptLoadkey_KEYBUF, hlen] using Memory.agree_writeList s.KEYBUF t.KEYBUF key

/-- What acceptance of a block command leaves live is the table and what the block gives (R113, R123). -/
theorem SameLive.acceptEncrypt (hk : s.KEY_VALID = true) (blk : List Byte) :
    SameLive (acceptEncrypt blk { s with RESP_VALID := false }) (acceptEncrypt blk { t with RESP_VALID := false }) :=
  sameLive_of_onBlock rfl h.schedule h.replies (inv_kept.encrypt blk hs hk)
    (inv_kept.encrypt blk ht (h.KEY_VALID ▸ hk)) (.inl rfl) (h.keyed hk) ⟨rfl, rfl, rfl⟩

theorem SameLive.acceptDecrypt (hk : s.KEY_VALID = true) (blk : List Byte) :
    SameLive (acceptDecrypt blk { s with RESP_VALID := false }) (acceptDecrypt blk { t with RESP_VALID := false }) :=
  sameLive_of_onBlock rfl h.schedule h.replies (inv_kept.decrypt blk hs hk)
    (inv_kept.decrypt blk ht (h.KEY_VALID ▸ hk)) (.inr rfl) (h.keyed hk) ⟨rfl, rfl, rfl⟩

omit hs ht in
theorem SameLive.blockCommand (hp : s.PHASE = .IDLE) {blk : List Byte} (hw : payloadFits blk = true)
    {accept : State → State} (haccept : s.KEY_VALID = true →
      SameLive (accept { s with RESP_VALID := false }) (accept { t with RESP_VALID := false })) :
    ∃ s' t', issueCommand blk s (fun s => checkBlock blk s accept) = .next s' ∧
      issueCommand blk t (fun t => checkBlock blk t accept) = .next t' ∧ SameLive s' t' := by
  have hp' : t.PHASE = .IDLE := h.PHASE ▸ hp
  cases hk : s.KEY_VALID with
  | false =>
    have hk' := h.KEY_VALID.symm.trans hk
    exact ⟨_, _, blockCommand_of_no_key hw hp hk _, blockCommand_of_no_key hw hp' hk' _, h.raise hp .NO_KEY⟩
  | true =>
    have hk' := h.KEY_VALID.symm.trans hk
    by_cases hl : blk.length = 8
    · exact ⟨_, _, blockCommand_of_block hw hp hk _ hl, blockCommand_of_block hw hp' hk' _ hl, haccept hk⟩
    · exact ⟨_, _, blockCommand_of_wrong_length hw hp hk _ hl, blockCommand_of_wrong_length hw hp' hk' _ hl,
        h.raise hp .INVALID_LENGTH⟩

theorem SameLive.exec (hp : s.PHASE = .IDLE) {i : Instr} (hw : i.wf = true) :
    ∃ s' t', exec i s = .next s' ∧ exec i t = .next t' ∧ SameLive s' t' := by
  cases i with
  | loadkey key =>
    refine ⟨_, _, execLoadkey_next.2 ⟨hw, hp, rfl⟩, execLoadkey_next.2 ⟨hw, h.PHASE ▸ hp, rfl⟩, ?_⟩
    split
    · exact h.raise hp .INVALID_KEY
    · rename_i hne
      exact h.acceptLoadkey hs ht hp (Nat.one_le_iff_ne_zero.2 hne) ((payloadFits_iff key).1 hw)
  | encrypt blk => exact h.blockCommand hp hw fun hk => h.acceptEncrypt hs ht hk blk
  | decrypt blk => exact h.blockCommand hp hw fun hk => h.acceptDecrypt hs ht hk blk

/-- Issue in `IDLE` (R36, R74, R189). -/
theorem SameLive.issueBytes (hp : s.PHASE = .IDLE) (bytes : List Byte) (later : List Turn) :
    ∃ s' t', issueBytes bytes later s = .next s' ∧ issueBytes bytes later t = .next t' ∧ SameLive s' t' := by
  have hp' : t.PHASE = .IDLE := h.PHASE ▸ hp
  cases hd : decode bytes with
  | command i rest =>
    obtain ⟨s', t', he, he', hsame⟩ := (h.agents rfl h.replies).exec
      (inv_kept.agents (sendRest rest later) s.replies hs) (inv_kept.agents _ t.replies ht) hp (decode_wf hd)
    exact ⟨s', t', (issueBytes_next hp).2 (.inl ⟨i, rest, hd, he⟩),
      (issueBytes_next hp').2 (.inl ⟨i, rest, hd, he'⟩), hsame⟩
  | reserved op pay rest =>
    exact ⟨_, _, (issueBytes_next hp).2 (.inr (.inl ⟨op, pay, rest, hd, rfl⟩)),
      (issueBytes_next hp').2 (.inr (.inl ⟨op, pay, rest, hd, rfl⟩)),
      (h.agents (turns := sendRest rest later) rfl h.replies).raise hp .ILLEGAL_COMMAND⟩
  | incomplete =>
    exact ⟨_, _, (issueBytes_next hp).2 (.inr (.inr ⟨hd, rfl⟩)), (issueBytes_next hp').2 (.inr (.inr ⟨hd, rfl⟩)),
      h.agents rfl h.replies⟩

/-! ### The step -/

theorem SameLive.step : (∃ s' t', step s = .next s' ∧ step t = .next t' ∧ SameLive s' t') ∨
    (step s = .fault .respNotReady ∧ step t = .fault .respNotReady) := by
  have hmicro := h.micro hs ht
  cases hturn : s.schedule with
  | nil =>
    rw [step_of_empty hturn, step_of_empty (h.schedule ▸ hturn)]
    exact .inl hmicro
  | cons turn later =>
    have hturn' := h.schedule.symm.trans hturn
    cases turn with
    | engine =>
      rw [step_of_engine hturn, step_of_engine hturn']
      exact .inl ((h.agents rfl h.replies).micro (inv_kept.agents later s.replies hs)
        (inv_kept.agents later t.replies ht))
    | issue bytes =>
      left
      by_cases hp : s.PHASE = .IDLE
      · rw [step_of_issue_idle hturn hp, step_of_issue_idle hturn' (h.PHASE ▸ hp)]
        exact h.issueBytes hs ht hp bytes later
      · rw [step_of_issue_busy hturn hp, step_of_issue_busy hturn' (h.PHASE ▸ hp)]
        exact hmicro
    | readResp =>
      cases hv : s.RESP_VALID with
      | true =>
        left
        obtain ⟨hstatus, hlen, hdout⟩ := h.response hv
        obtain ⟨bytes, hbytes, hbytes'⟩ := hs.responseFrame_agree hv hstatus hlen hdout
        rw [step_of_readResp_valid hturn hv, step_of_readResp_valid hturn' (h.RESP_VALID ▸ hv),
          readRespTurn_of_frame later hbytes, readRespTurn_of_frame later hbytes']
        exact ⟨_, _, rfl, rfl, h.agents rfl (congrArg (· ++ [Reply.response bytes]) h.replies)⟩
      | false =>
        have hv' := h.RESP_VALID.symm.trans hv
        by_cases hp : s.PHASE = .IDLE
        · exact .inr ⟨step_of_readResp_idle hturn hv hp, step_of_readResp_idle hturn' hv' (h.PHASE ▸ hp)⟩
        · rw [step_of_readResp_busy hturn hv hp, step_of_readResp_busy hturn' hv' (h.PHASE ▸ hp)]
          exact .inl hmicro
    | readStatus =>
      refine .inl ⟨_, _, step_of_readStatus hturn, step_of_readStatus hturn', h.agents rfl ?_⟩
      rw [readStatus, readStatus, ready, ready, h.PHASE, h.KEY_VALID, h.RESP_VALID, h.replies]
    | reset => exact .inl ⟨_, _, step_of_reset hturn, step_of_reset hturn', sameLive_resetEngine rfl h.replies⟩

end

end Sys2Proof.Machine
end

section
/-! PROOFS. What `S`, `KEY_VALID`, `PHASE` and the response do in a step (10_state.md R26, R31, R32, R41), and the frame
of a command (30_encoding.md R70, R77). -/

namespace Sys2Proof.Machine

theorem exec_S {i : Instr} {s t : State} (h : exec i s = .next t) : t.S = s.S := by
  obtain ⟨_, _, ⟨_, rfl⟩ | ⟨_, _, _, rfl⟩ | ⟨_, _, _, _, rfl⟩ | ⟨_, _, _, _, rfl⟩⟩ := exec_cases h <;> rfl

/-- What a step that is not a reset does to `S` (R26, R51). -/
theorem step_S {s t : State} (h : step s = .next t) (hreset : s.schedule.head? ≠ some .reset) : t.S = s.S ∨
    (s.PHASE = .K_INIT ∨ s.PHASE = .K_MIX) ∧ ∃ w, t.S = Memory.write s.S s.SI.toNat w := by
  cases step_effect h with
  | engine turns hm => exact micro_S (s := { s with schedule := turns }) hm
  | @command _ _ rest later _ _ _ hexec =>
    exact .inl (exec_S (s := { s with schedule := sendRest rest later }) hexec)
  | reserved => exact .inl rfl
  | agents => exact .inl rfl
  | reset hturn => exact absurd (by rw [hturn]; rfl) hreset

/-- A command takes `KEY_VALID` away only as an accepted LOADKEY, and never gives it (R32, R96). -/
theorem exec_KEY_VALID {i : Instr} {s t : State} (h : exec i s = .next t) : t.KEY_VALID = s.KEY_VALID ∨
    s.PHASE = .IDLE ∧ t.PHASE = .K_PACK ∧ t.KEY_VALID = false ∧ ∃ key, i = .loadkey key ∧ key ≠ [] := by
  obtain ⟨_, hp, ⟨_, rfl⟩ | ⟨key, hi, hne, rfl⟩ | ⟨_, _, _, _, rfl⟩ | ⟨_, _, _, _, rfl⟩⟩ := exec_cases h
  · exact .inl rfl
  · exact .inr ⟨hp, rfl, rfl, key, hi, fun e => hne (e ▸ rfl)⟩
  · exact .inl rfl
  · exact .inl rfl

/-- The phase after a block command in `IDLE` whose acceptance leads to `p` (R31, R157). -/
theorem blockCommand_PHASE {blk : List Byte} {s t : State} {accept : State → State} {p : Phase}
    (haccept : ∀ u, (accept u).PHASE = p)
    (h : issueCommand blk s (fun s => checkBlock blk s accept) = .next t) :
    s.PHASE = .IDLE ∧ t.PHASE = if s.KEY_VALID = true ∧ blk.length = 8 then p else .IDLE := by
  obtain ⟨hw, hp, _⟩ := issueCommand_next.1 h
  refine ⟨hp, ?_⟩
  cases hk : s.KEY_VALID with
  | false =>
    obtain rfl := Host.Outcome.next.inj ((blockCommand_of_no_key hw hp hk accept).symm.trans h)
    rw [if_neg (by simp), raise_PHASE, hp]
  | true =>
    by_cases hl : blk.length = 8
    · obtain rfl := Host.Outcome.next.inj ((blockCommand_of_block hw hp hk accept hl).symm.trans h)
      rw [if_pos ⟨rfl, hl⟩, haccept]
    · obtain rfl := Host.Outcome.next.inj ((blockCommand_of_wrong_length hw hp hk accept hl).symm.trans h)
      rw [if_neg (fun e => hl e.2), raise_PHASE, hp]

/-- The phase after LOADKEY in `IDLE` (R31, R96, R151). -/
theorem execLoadkey_PHASE {key : List Byte} {s t : State} (h : execLoadkey key s = .next t) :
    s.PHASE = .IDLE ∧ t.PHASE = if 1 ≤ key.length then .K_PACK else .IDLE := by
  obtain ⟨_, hp, rfl⟩ := execLoadkey_next.1 h
  refine ⟨hp, ?_⟩
  by_cases hl : key.length = 0
  · rw [if_pos hl, if_neg (by omega)]
    exact hp
  · rw [if_neg hl, if_pos (by omega)]
    rfl

/-- With a response to read, a step that is neither an issue nor a reset changes only the agents' lists (R41,
R160). -/
theorem Inv.step_of_response {s t : State} (h : Inv s) (hv : s.RESP_VALID = true) (hstep : step s = .next t)
    (hissue : ∀ bytes, s.schedule.head? ≠ some (.issue bytes)) (hreset : s.schedule.head? ≠ some .reset) :
    ∃ turns told, t = { s with schedule := turns, replies := told } := by
  have hp := h.idle_of_response hv
  rcases step_cases hstep with ⟨turns, hm⟩ | ⟨bytes, _, hturn, _⟩ | ⟨_, _, rfl⟩ | ⟨_, hturn, _⟩
  · exact ⟨turns, s.replies, Host.Outcome.next.inj (hm.symm.trans (micro_of_idle hp))⟩
  · exact absurd (by rw [hturn]; rfl) (hissue bytes)
  · exact ⟨_, _, rfl⟩
  · exact absurd (by rw [hturn]; rfl) hreset

/-- A whole frame is decoded by its opcode, whatever follows it (R70, R77). -/
theorem decode_frameBytes {op : Byte} {pay : List Byte} (rest : List Byte) (h : pay.length ≤ 255) :
    decode (frameBytes op pay ++ rest) = decodeFrame op pay rest := by
  have hlen : (BitVec.ofNat 8 pay.length).toNat = pay.length := by
    rw [BitVec.toNat_ofNat, Nat.mod_eq_of_lt (by omega)]
  simp [frameBytes, decode, hlen]

/-- The decoder undoes the encoder (R77). -/
theorem decode_encode {i : Instr} (rest : List Byte) (h : i.wf = true) :
    decode (encode i ++ rest) = .command i rest := by
  have hpay : i.pay.length ≤ 255 := by cases i <;> exact (payloadFits_iff _).1 h
  rw [encode, decode_frameBytes rest hpay]
  cases i <;> rfl

end Sys2Proof.Machine

open Sys2Proof Sys2Proof.Machine

/-- Settles O47: each move of the engine, each agent's turn and reset keep the invariants. -/
theorem stepKeepsInvariants : Obligations.StepKeepsInvariants :=
  fun _ _ h hstep => inv_kept.step h hstep

/-- Settles O48: a LOADKEY's micro-steps are those of `Building`, and nothing else touches the tables it builds. -/
theorem stepKeepsTableOnTrack : Obligations.StepKeepsTableOnTrack :=
  fun _ _ h hstep => (safe_kept.step h hstep).track

/-- Settles O59: each step reads what is live only. -/
theorem deadStateUnobservable : Obligations.DeadStateUnobservable :=
  fun _ _ hs ht h => h.step hs ht

/-- Settles O50, phase by phase. -/
theorem microStepNeverFaults : Obligations.MicroStepNeverFaults :=
  fun _ h => h.micro_total

/-- Settles O51: reachable states are safe, and a safe state's step is defined but for the host's early read. -/
theorem runsFromResetNeverFault : Obligations.RunsFromResetNeverFault :=
  fun _ h => ⟨h.safe, h.safe.inv.step_total⟩

/-- Settles O53: the micro-steps' and the commands' own transfers, and the cases of a step. -/
theorem sequencerTransfers : Obligations.SequencerTransfers := by
  refine ⟨fun s t h => micro_PHASE h, fun i s t h => ?_, fun s t h hne => ?_, fun s hturn => ?_⟩
  · cases i with
    | loadkey key => exact execLoadkey_PHASE h
    | encrypt blk => exact blockCommand_PHASE (acceptEncrypt_PHASE blk) h
    | decrypt blk => exact blockCommand_PHASE (acceptDecrypt_PHASE blk) h
  · cases step_effect h with
    | engine turns hm => exact .inl ⟨turns, hm⟩
    | command _ _ hexec => exact .inr (.inl ⟨_, _, hexec⟩)
    | reserved => exact absurd rfl hne
    | agents => exact absurd rfl hne
    | reset hturn => exact .inr (.inr ⟨by rw [hturn]; rfl, rfl⟩)
  · obtain ⟨later, hlater⟩ := List.head?_eq_some_iff.1 hturn
    exact ⟨_, step_of_reset hlater, rfl⟩

/-- Settles O54: the one write to `S` is at `SI`, in `K_INIT` and `K_MIX`. -/
theorem subkeysWrittenOnlyByKeySchedule : Obligations.SubkeysWrittenOnlyByKeySchedule := by
  intro s t h hreset
  rcases step_S h hreset with hS | ⟨hp, w, hS⟩
  · exact ⟨fun _ _ => hS, fun i _ => by rw [hS]⟩
  · exact ⟨fun hinit hmix => absurd hp (not_or.2 ⟨hinit, hmix⟩),
      fun i hi => by rw [hS, Memory.read_write_other _ _ hi]⟩

/-- Settles O55: with a key loaded no LOADKEY is in progress, and only a LOADKEY in progress writes `S`. -/
theorem tableImmutableWhileKeyValid : Obligations.TableImmutableWhileKeyValid := by
  intro s t hinv hk h hreset
  have hidle : ¬ s.PHASE.expanding := fun hp => by simp [hinv.unkeyed_expanding hp] at hk
  rcases step_S h hreset with hS | ⟨hp, _⟩
  · exact hS
  · exact absurd (.inr hp) hidle

/-- Settles O56: micro-steps only turn `KEY_VALID` on, commands only off. -/
theorem keyValidTransitions : Obligations.KeyValidTransitions := by
  intro s t h
  cases step_effect h with
  | engine turns hm =>
    rcases micro_KEY_VALID (s := { s with schedule := turns }) hm with hkeep | ⟨hon, hmix⟩
    · exact ⟨fun hs ht => by simp [hkeep, hs] at ht, fun hs ht => by simp [hkeep, hs] at ht⟩
    · exact ⟨fun _ _ => hmix, fun _ ht => by simp [hon] at ht⟩
  | @command _ bytes rest later i hturn hdecode hexec =>
    rcases exec_KEY_VALID (s := { s with schedule := sendRest rest later }) hexec with
      hkeep | ⟨hp, hpack, hoff, key, rfl, hne⟩
    · exact ⟨fun hs ht => by simp [hkeep, hs] at ht, fun hs ht => by simp [hkeep, hs] at ht⟩
    · exact ⟨fun _ ht => by simp [hoff] at ht,
        fun _ _ => .inr ⟨hp, hpack, bytes, key, rest, by rw [hturn]; rfl, hdecode, hne⟩⟩
  | reserved => exact ⟨fun hs ht => by simp [hs] at ht, fun hs ht => by simp [hs] at ht⟩
  | agents => exact ⟨fun hs ht => by simp [hs] at ht, fun hs ht => by simp [hs] at ht⟩
  | reset hturn => exact ⟨fun _ ht => by simp at ht, fun _ _ => .inl (by rw [hturn]; rfl)⟩

/-- Settles O58: the engine is idle, and an idle engine is left alone. -/
theorem responseKeptUntilNextCommand : Obligations.ResponseKeptUntilNextCommand := by
  intro s t hinv hv h hissue hreset
  obtain ⟨turns, told, rfl⟩ := hinv.step_of_response hv h hissue hreset
  exact ⟨hv, rfl, rfl, rfl, rfl, rfl, hinv.idle_of_response hv⟩

/-- Settles O4: the decoder reads the command back from its frame, with nothing left. -/
theorem stepRunsDecodedCommand : Obligations.StepRunsDecodedCommand := by
  intro s i later hw hp hturn
  have hdecode := decode_encode [] hw
  rw [List.append_nil] at hdecode
  simp only [step_of_issue_idle hturn hp, issueBytes, hdecode, sendRest]

/-- Settles O8: the engine moves and no micro-step touches the schedule. -/
theorem busyEngineHoldsFrame : Obligations.BusyEngineHoldsFrame := by
  refine ⟨fun s bytes later hp hturn => ?_, fun s i hp hw => ?_⟩
  · have hstep := step_of_issue_busy hturn hp
    exact ⟨hstep, fun t ht => (micro_keeps_agents (hstep ▸ ht)).1.trans hturn⟩
  · cases i <;> exact (if_pos hw).trans (if_neg hp)

/-- Settles O11: the frame without and with data, the wait, and the step that is not enabled. -/
theorem readRespReturnsFrame : Obligations.ReadRespReturnsFrame := by
  intro s later hturn
  refine ⟨fun hv hlen => ?_, fun data hdata hv hlen hread => ?_, step_of_readResp_busy hturn,
    step_of_readResp_idle hturn⟩
  · rw [step_of_readResp_valid hturn hv, readRespTurn_of_frame later (responseFrame_of_no_data hlen)]
    rfl
  · rw [step_of_readResp_valid hturn hv, readRespTurn_of_frame later (responseFrame_of_data hlen hdata hread),
      answerFrame, hdata]

/-- Settles O13, from the turn's own case. -/
theorem readStatusReturnsBits : Obligations.ReadStatusReturnsBits :=
  fun _ _ hturn => step_of_readStatus hturn

/-- Settles O23: the step is defined under the rule's precondition, and its two outcomes are the model's. -/
theorem packStepShiftsByteIn : Obligations.PackStepShiftsByteIn := by
  intro s byte word hp hpos hbytes hC hb hw
  have hcnt : s.CNT ≠ 0 := fun e => by simp [e] at hpos
  have hdec := cnt_sub_one hcnt
  have hstep := (micro_of_packing hp).trans
    (kPack_next.2 ⟨hcnt, by omega, by omega, byte, word, hb, hw, rfl⟩)
  have hpack : packByte word byte = BitVec.ofNat 32 ((word.toNat * 256 + byte.toNat) % 2 ^ 32) :=
    BitVec.eq_of_toNat_eq (by simp [packByte])
  have hother (q : Nat) (hq : q ≠ (s.CNT.toNat - 1) / 4) :=
    Memory.read_write_other s.L (packByte word byte) hq
  by_cases hlast : s.CNT - 1 = 0
  · rw [if_pos hlast] at hstep
    have hzero : s.CNT.toNat - 1 = 0 := by rw [← hdec, hlast]; rfl
    exact ⟨_, hstep, by rw [Memory.read_write_same, hpack], hother, hdec, fun _ => ⟨rfl, rfl⟩,
      fun hne => absurd hzero hne, rfl, rfl, rfl, rfl, rfl, rfl, rfl, rfl, rfl, rfl, rfl, rfl, rfl, rfl⟩
  · rw [if_neg hlast] at hstep
    have hmore : s.CNT.toNat - 1 ≠ 0 := fun e => hlast (BitVec.eq_of_toNat_eq (hdec.trans e))
    exact ⟨_, hstep, by rw [Memory.read_write_same, hpack], hother, hdec, fun hzero => absurd hzero hmore,
      fun _ => ⟨hp, rfl⟩, rfl, rfl, rfl, rfl, rfl, rfl, rfl, rfl, rfl, rfl, rfl, rfl, rfl, rfl⟩

/-- Settles O46: the state after reset is the one every reset step leads to. -/
theorem resetIsSafe : Obligations.ResetIsSafe := safe_start
end

section
/-! PROOFS. The byte order is a bijection between a word and its four bytes (20_memory.md R56). -/

namespace Sys2Proof.Machine

/-- A byte field of a word as a number. -/
theorem byteField_toNat (v : Word) (k : Nat) : (v.extractLsb' k 8).toNat = v.toNat / 2 ^ k % 2 ^ 8 := by
  rw [BitVec.extractLsb'_toNat, Nat.shiftRight_eq_div_pow]

/-- The byte fields of `LE32` are its bytes: below each stands less than one unit of it. -/
theorem unle32_le32 (b0 b1 b2 b3 : Byte) : unle32 (le32 b0 b1 b2 b3) = [b0, b1, b2, b3] := by
  have h0 := b0.isLt
  have h1 := b1.isLt
  have h2 := b2.isLt
  have h3 := b3.isLt
  simp only [unle32, List.cons.injEq, and_true, ← BitVec.toNat_inj, byteField_toNat, le32_toNat]
  omega

/-- A word is the sum of its byte fields, each in its place. -/
theorem le32_byteFields (v : Word) :
    le32 (v.extractLsb' 0 8) (v.extractLsb' 8 8) (v.extractLsb' 16 8) (v.extractLsb' 24 8) = v := by
  have hv := v.isLt
  simp only [← BitVec.toNat_inj, le32_toNat, byteField_toNat]
  omega

end Sys2Proof.Machine

open Sys2Proof Sys2Proof.Machine

/-- Settles O45: `LE32` does not wrap, so its byte fields are the given bytes, and byte fields add up to their word. -/
theorem littleEndianBothWays : Obligations.LittleEndianBothWays := by
  refine ⟨fun b0 b1 b2 b3 => ⟨le32_toNat b0 b1 b2 b3, unle32_le32 b0 b1 b2 b3⟩, fun v => ?_⟩
  have hlow : (v.extractLsb' 0 8).toNat = v.toNat % 2 ^ 8 := by rw [byteField_toNat, Nat.pow_zero, Nat.div_one]
  exact ⟨_, _, _, _, rfl, le32_byteFields v, hlow, byteField_toNat v 8, byteField_toNat v 16, byteField_toNat v 24⟩
end

section
/-! PROOFS. What stands at the front of a byte sequence: a command, a reserved frame or no whole frame
(30_encoding.md R70 to R78). -/

namespace Sys2Proof.Machine

/-! ### The four cases of a whole frame (R77) -/

theorem decodeFrame_of_reserved {op : Byte} (pay rest : List Byte)
    (h1 : op ≠ 0x01#8) (h2 : op ≠ 0x02#8) (h3 : op ≠ 0x03#8) : decodeFrame op pay rest = .reserved op pay rest := by
  simp only [decodeFrame, h1, h2, h3, if_false]

/-- A whole frame is a command's, told by its opcode, or a reserved one. -/
theorem decodeFrame_cases (op : Byte) (pay rest : List Byte) :
    (∃ i : Instr, op = i.opcode ∧ pay = i.pay ∧ decodeFrame op pay rest = .command i rest) ∨
    ((op ≠ 0x01#8 ∧ op ≠ 0x02#8 ∧ op ≠ 0x03#8) ∧ decodeFrame op pay rest = .reserved op pay rest) := by
  by_cases h1 : op = 0x01#8
  · subst h1; exact .inl ⟨.loadkey pay, rfl, rfl, rfl⟩
  by_cases h2 : op = 0x02#8
  · subst h2; exact .inl ⟨.encrypt pay, rfl, rfl, rfl⟩
  by_cases h3 : op = 0x03#8
  · subst h3; exact .inl ⟨.decrypt pay, rfl, rfl, rfl⟩
  exact .inr ⟨⟨h1, h2, h3⟩, decodeFrame_of_reserved pay rest h1 h2 h3⟩

/-! ### Where a frame ends (R70, R71) -/

/-- A LEN byte that counts the payload is the one `frameBytes` writes. -/
theorem eq_frameBytes_of_length (op : Byte) {len : Byte} {pay : List Byte} (rest : List Byte)
    (h : pay.length = len.toNat) : op :: len :: (pay ++ rest) = frameBytes op pay ++ rest := by
  simp [frameBytes, h]

/-- Fewer than `2 + LEN` bytes (R70, R189). -/
def NoWholeFrame (bytes : List Byte) : Prop :=
  ∀ (op len : Byte) (more : List Byte), bytes = op :: len :: more → more.length < len.toNat

theorem decode_of_noWholeFrame {bytes : List Byte} (h : NoWholeFrame bytes) : decode bytes = .incomplete := by
  match bytes with
  | [] => rfl
  | [_] => rfl
  | op :: len :: more => exact if_neg (Nat.not_le_of_lt (h op len more rfl))

/-- LEN cuts a whole frame off the front, unless there are too few bytes for it. -/
theorem wholeFrame_or_noWholeFrame (bytes : List Byte) :
    (∃ op pay rest, pay.length ≤ 255 ∧ bytes = frameBytes op pay ++ rest) ∨ NoWholeFrame bytes := by
  match bytes with
  | [] => exact .inr nofun
  | [_] => exact .inr nofun
  | op :: len :: more =>
    by_cases hwhole : len.toNat ≤ more.length
    · have hlen : (more.take len.toNat).length = len.toNat := List.length_take_of_le hwhole
      have hmax := len.isLt
      refine .inl ⟨op, more.take len.toNat, more.drop len.toNat, by omega, ?_⟩
      rw [← eq_frameBytes_of_length op _ hlen, List.take_append_drop]
    · refine .inr ?_
      rintro _ _ _ ⟨⟩
      exact Nat.lt_of_not_le hwhole

/-! ### What the decoder answers, and where (R77) -/

/-- The decoder's answers, said once, each with the bytes it is given on. -/
theorem decode_cases (bytes : List Byte) :
    (∃ i rest, bytes = encode i ++ rest ∧ decode bytes = .command i rest) ∨
    (∃ op pay rest, (op ≠ 0x01#8 ∧ op ≠ 0x02#8 ∧ op ≠ 0x03#8) ∧ bytes = frameBytes op pay ++ rest ∧
      decode bytes = .reserved op pay rest) ∨
    (NoWholeFrame bytes ∧ decode bytes = .incomplete) := by
  rcases wholeFrame_or_noWholeFrame bytes with ⟨op, pay, rest, hfits, rfl⟩ | hshort
  · rw [decode_frameBytes rest hfits]
    rcases decodeFrame_cases op pay rest with ⟨i, rfl, rfl, hframe⟩ | ⟨hop, hframe⟩
    · exact .inl ⟨i, rest, rfl, hframe⟩
    · exact .inr (.inl ⟨op, pay, rest, hop, rfl, hframe⟩)
  · exact .inr (.inr ⟨hshort, decode_of_noWholeFrame hshort⟩)

theorem decode_eq_command_iff {bytes rest : List Byte} {i : Instr} :
    decode bytes = .command i rest ↔ i.wf = true ∧ bytes = encode i ++ rest := by
  refine ⟨fun h => ⟨decode_wf h, ?_⟩, ?_⟩
  · rcases decode_cases bytes with ⟨_, _, hbytes, hd⟩ | ⟨_, _, _, _, _, hd⟩ | ⟨_, hd⟩
    all_goals cases h.symm.trans hd
    exact hbytes
  · rintro ⟨hw, rfl⟩
    exact decode_encode rest hw

theorem decode_eq_reserved_iff {bytes pay rest : List Byte} {op : Byte} :
    decode bytes = .reserved op pay rest ↔
      op ≠ 0x01#8 ∧ op ≠ 0x02#8 ∧ op ≠ 0x03#8 ∧ pay.length ≤ 255 ∧ bytes = frameBytes op pay ++ rest := by
  constructor
  · intro h
    rcases decode_cases bytes with ⟨_, _, _, hd⟩ | ⟨_, _, _, ⟨h1, h2, h3⟩, hbytes, hd⟩ | ⟨_, hd⟩
    all_goals cases h.symm.trans hd
    exact ⟨h1, h2, h3, decode_fits (.inl h), hbytes⟩
  · rintro ⟨h1, h2, h3, hfits, rfl⟩
    rw [decode_frameBytes rest hfits, decodeFrame_of_reserved pay rest h1 h2 h3]

theorem decode_eq_incomplete_iff {bytes : List Byte} : decode bytes = .incomplete ↔ NoWholeFrame bytes := by
  refine ⟨fun h => ?_, decode_of_noWholeFrame⟩
  rcases decode_cases bytes with ⟨_, _, _, hd⟩ | ⟨_, _, _, _, _, hd⟩ | ⟨hshort, _⟩
  · cases h.symm.trans hd
  · cases h.symm.trans hd
  · exact hshort

/-! ### The statuses (R76) -/

theorem Status.code_lt (x : Status) : x.code.toNat < 5 := by
  cases x <;> decide

end Sys2Proof.Machine

open Sys2Proof Sys2Proof.Machine

/-- Settles O3: LEN alone cuts the frame off, its opcode alone says which of the four cases it is, and both are
written back by `frameBytes`. -/
theorem decoderAcceptsExactlyFrames : Obligations.DecoderAcceptsExactlyFrames :=
  fun _ => ⟨fun _ _ => decode_eq_command_iff, fun _ _ _ => decode_eq_reserved_iff, decode_eq_incomplete_iff⟩

/-- Settles O2: such bytes are `frameBytes` of the opcode and the payload. -/
theorem frameDecodesByOpcode : Obligations.FrameDecodesByOpcode := by
  refine ⟨fun op len pay rest hlen => ?_, fun i rest hw => decode_encode rest hw⟩
  have hfits : pay.length ≤ 255 := by
    have := len.isLt
    omega
  rw [eq_frameBytes_of_length op rest hlen, decode_frameBytes rest hfits]
  rfl

/-- Settles O1: the frames are encodings of well-formed commands or reserved frames; the table words are computed. -/
theorem specFramesDecode : Obligations.SpecFramesDecode :=
  ⟨decode_eq_command_iff.2 ⟨rfl, rfl⟩, decode_eq_command_iff.2 ⟨rfl, rfl⟩, decode_eq_command_iff.2 ⟨rfl, rfl⟩,
    decode_eq_command_iff.2 ⟨rfl, rfl⟩, decode_eq_command_iff.2 ⟨rfl, rfl⟩,
    decode_eq_reserved_iff.2 ⟨by decide, by decide, by decide, by decide, rfl⟩,
    decode_eq_reserved_iff.2 ⟨by decide, by decide, by decide, by decide, rfl⟩,
    by decide, by decide, by decide, by decide⟩

/-- Settles O6: the decoder finds the reserved frame with nothing left, and its payload fits. -/
theorem reservedFrameAnswersIllegalCommand : Obligations.ReservedFrameAnswersIllegalCommand := by
  intro s op pay later h1 h2 h3 hfits hp hturn
  have hdecode : decode (frameBytes op pay) = .reserved op pay [] :=
    decode_eq_reserved_iff.2 ⟨h1, h2, h3, hfits, (List.append_nil _).symm⟩
  rw [step_of_issue_idle hturn hp]
  exact (issueBytes_next hp).2 (.inr (.inl ⟨op, pay, [], hdecode, rfl⟩))

/-- Settles O12: the five codes are those of R76, and these are all the statuses. -/
theorem statusCodes : Obligations.StatusCodes := ⟨rfl, rfl, rfl, rfl, rfl, Status.code_lt⟩
end

section
/-! PROOFS. The functions of the key schedule in closed form (40_key_schedule.md R93, R94, R102). -/

namespace Sys2Proof.Machine

/-! ### PACK (R92, R93) -/

/-- The first `g` bytes of key word `q` as a little-endian number, bytes past the key's end being 0 (R93). -/
def keyWordSum (key : List Byte) (q g : Nat) : Nat :=
  ∑ m ∈ Finset.range g, (byteAt key (4 * q + m)).toNat * 256 ^ m

theorem keyWordSum_succ (key : List Byte) (q g : Nat) :
    keyWordSum key q (g + 1) = keyWordSum key q g + (byteAt key (4 * q + g)).toNat * 256 ^ g :=
  Finset.sum_range_succ _ g

theorem byteAt_of_length_le {bs : List Byte} {k : Nat} (h : bs.length ≤ k) : byteAt bs k = 0 :=
  List.getD_eq_default _ _ h

/-- The bytes past the key's end add nothing to a word (R93). -/
theorem keyWordSum_of_length_le {key : List Byte} {q g h : Nat} (hgh : g ≤ h) (hend : key.length ≤ 4 * q + g) :
    keyWordSum key q h = keyWordSum key q g := by
  induction h, hgh using Nat.le_induction with
  | base => rfl
  | succ h hgh ih => rw [keyWordSum_succ, ih, byteAt_of_length_le (by omega)]; simp

/-- The four bytes of a key word are its `LE32` (R56, R93). -/
theorem keyWordSum_four (key : List Byte) (q : Nat) : keyWordSum key q 4 = (wordAt key (4 * q)).toNat := by
  simp only [keyWordSum, Finset.sum_range_succ, Finset.sum_range_zero, wordAt, le32_toNat, Nat.add_zero]
  omega

/-- A byte shifted in and then more digits shifted in, modulo the word's size (R92). -/
theorem packByte_modEq (w : Word) (b : Byte) (p r : Nat) :
    (packByte w b).toNat * p + r ≡ (w.toNat * 256 + b.toNat) * p + r [MOD 2 ^ 32] := by
  rw [packByte, BitVec.toNat_ofNat]
  exact ((Nat.mod_modEq _ _).mul_right p).add_right r

/-- What the packing loop over the indices `n-1` down to 0 makes of word `q`: the word's bytes below `n`, of which
there are `min 4 (n - 4*q)`, are shifted in, the last one first (R92). -/
theorem packFrom_getElem? (key : List Byte) (n : Nat) {L : List Word} {q : Nat} {w : Word} (hw : L[q]? = some w) :
    (packFrom key n L)[q]? = some (BitVec.ofNat 32
      (w.toNat * 256 ^ min 4 (n - 4 * q) + keyWordSum key q (min 4 (n - 4 * q)))) := by
  induction n generalizing L w with
  | zero => simp [packFrom, hw, keyWordSum]
  | succ n ih =>
    by_cases hq : n / 4 = q
    · obtain ⟨hlen, _⟩ := List.getElem?_eq_some_iff.1 hw
      have hset : (L.set (n / 4) (packByte (L.getD (n / 4) 0) (byteAt key n)))[q]? =
          some (packByte w (byteAt key n)) := by
        rw [hq, List.getElem?_set_self hlen, List.getD_eq_getElem?_getD, hw, Option.getD_some]
      have hbefore : min 4 (n - 4 * q) = n - 4 * q := by omega
      have hafter : min 4 (n + 1 - 4 * q) = n - 4 * q + 1 := by omega
      have hindex : 4 * q + (n - 4 * q) = n := by omega
      rw [packFrom, ih hset, hbefore, hafter, keyWordSum_succ, hindex, Option.some.injEq, ← BitVec.toNat_inj,
        BitVec.toNat_ofNat, BitVec.toNat_ofNat]
      exact (packByte_modEq w (byteAt key n) _ _).trans (congrArg (· % 2 ^ 32) (by ring))
    · have hset : (L.set (n / 4) (packByte (L.getD (n / 4) 0) (byteAt key n)))[q]? = some w := by
        rw [List.getElem?_set_ne hq, hw]
      have hsame : min 4 (n + 1 - 4 * q) = min 4 (n - 4 * q) := by omega
      rw [packFrom, ih hset, hsame]

theorem pack_length (key : List Byte) : (pack key).length = Config.numWords key.length := by
  rw [pack, packFrom_length, List.length_replicate]

/-- R93: PACK reads the key as little-endian words. -/
theorem pack_getElem? {key : List Byte} {q : Nat} (hq : q < Config.numWords key.length) :
    (pack key)[q]? = some (wordAt key (4 * q)) := by
  have hzero : (List.replicate (Config.numWords key.length) (0 : Word))[q]? = some 0 := by
    rw [List.getElem?_replicate_of_lt hq]
  have hall : keyWordSum key q (min 4 (key.length - 4 * q)) = (wordAt key (4 * q)).toNat := by
    rw [← keyWordSum_four]
    rcases Nat.le_total 4 (key.length - 4 * q) with h | h
    · rw [Nat.min_eq_left h]
    · rw [Nat.min_eq_right h, keyWordSum_of_length_le h (by omega)]
  rw [pack, packFrom_getElem? key key.length hzero, hall]
  simp

/-! ### INIT (R94) -/

theorem initTable_getElem? {t i : Nat} (h : i < t) : (initTable t)[i]? = some (initWord i) := by
  simp [initTable, h]

/-- R94: INIT's closed form. -/
theorem initWord_toNat (i : Nat) : (initWord i).toNat = (Config.P32.toNat + i * Config.Q32.toNat) % 2 ^ 32 := by
  induction i with
  | zero => rfl
  | succ i ih => rw [initWord, add32_toNat, ih, Nat.mod_add_mod, Nat.add_assoc, Nat.succ_mul]

/-! ### The mixing pass's second rotation (R102, R133, R135) -/

/-- The rotator sees its amount modulo 32 only. -/
theorem rotl_congr {n m : Nat} (x : Word) (h : n % 32 = m % 32) : rotl x n = rotl x m := by
  unfold rotl
  rw [h]

theorem rotl_of_mod_eq_zero {n : Nat} (x : Word) (h : n % 32 = 0) : rotl x n = x := by
  unfold rotl
  exact if_pos h

/-- Reduction modulo `2^32` keeps the low five bits of a sum. -/
theorem add32_mod_32 (a b : Word) : (add32 a b).toNat % 32 = (a.toNat + b.toNat) % 32 := by
  rw [add32_toNat, Nat.mod_mod_of_dvd _ (by decide)]

end Sys2Proof.Machine

open Sys2Proof Sys2Proof.Machine

/-- Settles O36: PACK's words are the key's little-endian words, and `LE32` does not wrap. -/
theorem packIsLittleEndian : Obligations.PackIsLittleEndian := by
  refine fun key => ⟨pack_length key, fun q hq => ⟨_, pack_getElem? hq, ?_, rfl⟩⟩
  rw [wordAt, le32_toNat]
  simp only [byteAt]
  ring

/-- Settles O37, from INIT's words and their closed form. -/
theorem initTableIsArithmetic : Obligations.InitTableIsArithmetic := by
  refine ⟨initTable_length 26, initTable_getElem? (by decide), fun i h1 hi => ?_, fun t i hi => ?_⟩
  · obtain ⟨j, rfl⟩ := Nat.exists_eq_add_of_le' h1
    exact ⟨_, initTable_getElem? (by omega), initTable_getElem? hi⟩
  · exact ⟨_, initTable_getElem? hi, initWord_toNat i⟩

/-- Settles O44: the amounts are equal modulo 32. -/
theorem mixRotationSeesLowFiveBits : Obligations.MixRotationSeesLowFiveBits := by
  intro x a b
  have hlow := add32_mod_32 a b
  exact ⟨rotl_congr x hlow, rotl_congr x (hlow.trans (Nat.mod_mod _ 32).symm),
    (Nat.mod_mod_of_dvd _ (by decide)).symm, Nat.add_mod _ _ 32,
    fun hzero => rotl_of_mod_eq_zero x (hlow.trans hzero)⟩
end

section
/-! PROOFS. LOADKEY: its acceptance, its micro-steps one by one, and its whole run (40_key_schedule.md R96, R98 to R100,
R103). -/

namespace Sys2Proof.Machine

/-! ### Acceptance (R96) -/

/-- LOADKEY of a key that is not empty, in `IDLE` (R91, R96). -/
theorem exec_loadkey_of_key {s : State} {key : List Byte} (hp : s.PHASE = .IDLE) (h1 : 1 ≤ key.length)
    (h255 : key.length ≤ 255) : exec (.loadkey key) s = .next (acceptLoadkey key { s with RESP_VALID := false }) :=
  execLoadkey_next.2 ⟨(payloadFits_iff key).2 h255, hp, (if_neg (by omega)).symm⟩

theorem acceptLoadkey_C_toNat {key : List Byte} (s : State) (h255 : key.length ≤ 255) :
    (acceptLoadkey key s).C.toNat = Config.numWords key.length := by
  rw [acceptLoadkey_C, BitVec.toNat_ofNat, Nat.mod_eq_of_lt (by rw [numWords_eq]; omega)]

/-- Reading a table whose first elements were written: the new values there, the old ones behind. -/
theorem Memory.read_writeList_zero {α : Type} (m : Memory α) (vs : List α) (k : Nat) :
    Memory.read (Memory.writeList m 0 vs) k = if k < vs.length then vs[k]? else Memory.read m k := by
  simp only [Memory.read_writeList, Nat.zero_le, true_and, Nat.zero_add, Nat.sub_zero]

/-! ### The run (R103) -/

/-- What every micro-step keeps, every run of micro-steps keeps. -/
theorem microRun_keeps {P : State → Prop} (hstep : ∀ s t, P s → micro s = .next t → P t) {n : Nat} {s u : State}
    (hs : P s) (h : microRun n s = .next u) : P u := by
  induction n generalizing s with
  | zero => exact Host.Outcome.next.inj h ▸ hs
  | succ n ih =>
    obtain ⟨t, ht, hrest⟩ := andThen_next.1 h
    exact ih (hstep s t hs ht) hrest

/-- Only a command starts a block (R31). -/
theorem micro_off_block {s t : State} (hp : ¬ s.PHASE.onBlock) (h : micro s = .next t) : ¬ t.PHASE.onBlock := by
  rw [micro_PHASE h]
  cases hs : s.PHASE with
  | IDLE => simp [Phase.onBlock]
  | K_PACK | K_INIT | K_MIX => dsimp only; split <;> simp [Phase.onBlock]
  | ENC => exact absurd (.inl hs) hp
  | DEC => exact absurd (.inr hs) hp

/-- Only a block command writes `DOUT` (R29, R96 to R100). -/
theorem micro_DOUT {s t : State} (hp : ¬ s.PHASE.onBlock) (h : micro s = .next t) : t.DOUT = s.DOUT := by
  cases hs : s.PHASE with
  | IDLE =>
    obtain rfl := Host.Outcome.next.inj ((micro_of_idle hs).symm.trans h)
    rfl
  | K_PACK =>
    obtain ⟨_, _, _, _, _, _, _, rfl⟩ := kPack_next.1 (micro_of_packing hs ▸ h)
    split <;> rfl
  | K_INIT =>
    obtain ⟨_, _, _, rfl⟩ := kInit_next.1 (micro_of_filling hs ▸ h)
    split <;> rfl
  | K_MIX =>
    obtain ⟨_, _, _, _, _, _, _, _, _, _, _, rfl⟩ := kMix_next.1 (micro_of_mixing hs ▸ h)
    split <;> rfl
  | ENC => exact absurd (.inl hs) hp
  | DEC => exact absurd (.inr hs) hp

/-- What no run from a state without a block command touches. -/
structure OutsideKept (s t : State) : Prop where
  offBlock : ¬ t.PHASE.onBlock
  DOUT : t.DOUT = s.DOUT
  schedule : t.schedule = s.schedule
  replies : t.replies = s.replies

theorem outsideKept_microRun {n : Nat} {s u : State} (hp : ¬ s.PHASE.onBlock) (h : microRun n s = .next u) :
    OutsideKept s u := by
  refine microRun_keeps (P := OutsideKept s) (fun v t hv ht => ?_) ⟨hp, rfl, rfl, rfl⟩ h
  obtain ⟨hturns, htold⟩ := micro_keeps_agents ht
  exact ⟨micro_off_block hv.offBlock ht, (micro_DOUT hv.offBlock ht).trans hv.DOUT, hturns.trans hv.schedule,
    htold.trans hv.replies⟩

section
variable {P Q : State → Prop}
  (hstep : ∀ s, P s → ∃ t, micro s = .next t ∧ stepsLeft s = stepsLeft t + 1 ∧ (P t ∨ Q t))
  (hidle : ∀ s, Q s → s.PHASE = .IDLE)
include hstep hidle

/-- Where every micro-step from `P` counts `stepsLeft` down and leads to `P` or, in `IDLE`, to `Q`, each state before
the last is in `P` and has that many steps less left. -/
theorem stepsLeft_microRun {k : Nat} {s v : State} (hs : P s) (hk : k < stepsLeft s) (h : microRun k s = .next v) :
    P v ∧ stepsLeft s = stepsLeft v + k := by
  induction k generalizing s with
  | zero =>
    obtain rfl := Host.Outcome.next.inj h
    exact ⟨hs, rfl⟩
  | succ k ih =>
    obtain ⟨t, ht, hleft, hnext⟩ := hstep s hs
    rw [microRun, ht, andThen_of_next] at h
    rcases hnext with hP | hQ
    · obtain ⟨hv, hcount⟩ := ih hP (by omega) h
      exact ⟨hv, by omega⟩
    · have := stepsLeft_of_idle (hidle t hQ)
      omega

end

/-- How far a LOADKEY has still to go tells its phase (R97 to R100, R191). -/
theorem Building.PHASE_eq {key : List Byte} {s : State} (h : Building key s) :
    s.PHASE = if 26 + Config.MIXN (Config.numWords key.length) < stepsLeft s then .K_PACK
      else if Config.MIXN (Config.numWords key.length) < stepsLeft s then .K_INIT else .K_MIX := by
  rcases h with h | h | h
  · have hleft := h.left
    simp only [stepsLeft, h.PHASE, ← h.toKeyHeld.words_length, T_eq]
    rw [if_pos (by omega)]
  · have hindex := h.index
    simp only [stepsLeft, h.PHASE, ← h.toKeyHeld.words_length, T_eq]
    rw [if_neg (by omega), if_pos (by omega)]
  · have hcount := h.count
    simp only [stepsLeft, h.PHASE, ← h.toKeyHeld.words_length]
    rw [if_neg (by omega), if_neg (by omega)]

/-- R191: an accepted LOADKEY has `n + T + MIXN(C)` micro-steps to go. -/
theorem stepsLeft_acceptLoadkey {key : List Byte} (s : State) (h255 : key.length ≤ 255) :
    stepsLeft (acceptLoadkey key s) = key.length + 26 + Config.MIXN (Config.numWords key.length) := by
  have hcnt : (acceptLoadkey key s).CNT.toNat = key.length :=
    Laws.HeaderMatchesOneRow.len_toNat ((payloadFits_iff key).2 h255)
  simp only [stepsLeft, acceptLoadkey_PHASE, hcnt, acceptLoadkey_C_toNat s h255, T_eq]

/-- `n` states in `K_PACK`, then `T` in `K_INIT`, the rest before completion in `K_MIX` (R103). -/
theorem PHASE_microRun_acceptLoadkey {key : List Byte} {s v : State} {k : Nat} (h1 : 1 ≤ key.length)
    (h255 : key.length ≤ 255) (hk : k < stepsLeft (acceptLoadkey key s))
    (h : microRun k (acceptLoadkey key s) = .next v) :
    v.PHASE = if k < key.length then .K_PACK else if k < key.length + 26 then .K_INIT else .K_MIX := by
  obtain ⟨hbuilding, hcount⟩ := stepsLeft_microRun (fun _ => Building.step) (fun _ hdone => KeyLoaded.PHASE hdone)
    (.inl (packing_acceptLoadkey s h1 h255)) hk h
  rw [stepsLeft_acceptLoadkey s h255] at hcount
  have hpack : 26 + Config.MIXN (Config.numWords key.length) < stepsLeft v ↔ k < key.length := by omega
  have hinit : Config.MIXN (Config.numWords key.length) < stepsLeft v ↔ k < key.length + 26 := by omega
  simp only [hbuilding.PHASE_eq, hpack, hinit]

theorem expand_length (key : List Byte) : (expand 12 key).length = 26 := by
  rw [expand_eq, mixRun_S_length]
  exact initTable_length 26

/-- A full table's words are what it reads as. -/
theorem Memory.read_of_full {n i : Nat} {m : Memory Word} (h : Memory.full n m) (hi : i < n) :
    Memory.read m i = (tableWords m n)[i]? := by
  obtain ⟨v, hv⟩ := Memory.exists_read_of_full h hi
  rw [tableWords_getElem? m hi, hv, Option.getD_some]

theorem KeyLoaded.read_S {key : List Byte} {s : State} (h : KeyLoaded key s) {i : Nat} (hi : i < 26) :
    Memory.read s.S i = (expand 12 key)[i]? := by
  rw [Memory.read_of_full h.fullS hi, h.table]

theorem KeyLoaded.responseFrame_eq {key : List Byte} {s : State} (h : KeyLoaded key s) :
    responseFrame s = .next [0#8, 0#8] := by
  rw [responseFrame_of_no_data h.RESP_LEN, h.RESP_STATUS]
  rfl

end Sys2Proof.Machine

open Sys2Proof Sys2Proof.Machine

/-- Settles O17: acceptance writes exactly the key's bytes, the zeroed key words and the registers of R96. -/
theorem loadkeyAcceptance : Obligations.LoadkeyAcceptance := by
  intro s key hp h1 h255
  have hbytes := Laws.HeaderMatchesOneRow.len_toNat ((payloadFits_iff key).2 h255)
  have hwords := acceptLoadkey_C_toNat (key := key) { s with RESP_VALID := false } h255
  refine ⟨_, exec_loadkey_of_key hp h1 h255, hbytes, hwords, fun k hk => ?_, fun q hq => ?_, hbytes, rfl, rfl, rfl,
    fun k hk => ?_, fun q hq => ?_, rfl, rfl, rfl, rfl, rfl, rfl, rfl, rfl, rfl, rfl⟩
  · rw [acceptLoadkey_KEYBUF, Memory.read_writeList_zero, if_pos hk]
  · rw [hwords] at hq
    rw [acceptLoadkey_L, Memory.read_writeList_zero, List.length_replicate, if_pos hq,
      List.getElem?_replicate_of_lt hq]
  · rw [acceptLoadkey_KEYBUF, Memory.read_writeList_zero, if_neg (Nat.not_lt.2 hk)]
  · rw [hwords] at hq
    rw [acceptLoadkey_L, Memory.read_writeList_zero, List.length_replicate, if_neg (Nat.not_lt.2 hq)]

/-- Settles O24: the step is defined under the rule's precondition, and its two outcomes are the model's. -/
theorem initStepFillsSubkey : Obligations.InitStepFillsSubkey := by
  intro s before hp hi hC hbefore
  generalize hw : (if s.SI.toNat = 0 then Config.P32 else add32 before Config.Q32) = w
  have hvalue : (s.SI.toNat = 0 ∧ w = Config.P32) ∨
      (s.SI.toNat ≠ 0 ∧ ∃ v, Memory.read s.S (s.SI.toNat - 1) = some v ∧ w = add32 v Config.Q32) := by
    by_cases h0 : s.SI.toNat = 0
    · exact .inl ⟨h0, hw.symm.trans (if_pos h0)⟩
    · exact .inr ⟨h0, before, hbefore h0, hw.symm.trans (if_neg h0)⟩
  have hstep := (micro_of_filling hp).trans (kInit_next.2 ⟨by omega, w, hvalue, rfl⟩)
  have hS := Memory.read_write_same s.S s.SI.toNat w
  have hother (i : Nat) (hne : i ≠ s.SI.toNat) := Memory.read_write_other s.S w hne
  by_cases hlast : s.SI.toNat = 25
  · have hcount : (BitVec.ofNat 8 (Config.MIXN s.C.toNat)).toNat = 3 * max 26 s.C.toNat := by
      rw [BitVec.toNat_ofNat, MIXN_eq]
      omega
    rw [if_pos hlast] at hstep
    exact ⟨_, hstep, hS, hother, fun _ => ⟨rfl, rfl, rfl, rfl, rfl, hcount⟩, fun hne => absurd hlast hne,
      rfl, rfl, rfl, rfl, rfl, rfl, rfl, rfl, rfl, rfl, rfl⟩
  · have hnext : (s.SI + 1).toNat = s.SI.toNat + 1 := by bv_omega
    rw [if_neg hlast] at hstep
    exact ⟨_, hstep, hS, hother, fun h => absurd h hlast, fun _ => ⟨hp, hnext, rfl, rfl, rfl, rfl⟩,
      rfl, rfl, rfl, rfl, rfl, rfl, rfl, rfl, rfl, rfl, rfl⟩

/-- Settles O25: the step is defined under the rule's precondition, and its two outcomes are the model's. -/
theorem mixStepUpdatesBothTables : Obligations.MixStepUpdatesBothTables := by
  intro s sv lv hp hpos hi hC hj hs hl a b
  have hcnt : s.CNT ≠ 0 := fun e => by simp [e] at hpos
  have hdec := cnt_sub_one hcnt
  have hstep := (micro_of_mixing hp).trans
    (kMix_next.2 ⟨hcnt, hj, by omega, sv, lv, a, b, hs, hl, rfl, rfl, rfl⟩)
  have hsi : (BitVec.ofNat 5 ((s.SI.toNat + 1) % 26)).toNat = (s.SI.toNat + 1) % 26 := by
    rw [BitVec.toNat_ofNat]
    omega
  have hlj : (BitVec.ofNat 6 ((s.LJ.toNat + 1) % s.C.toNat)).toNat = (s.LJ.toNat + 1) % s.C.toNat := by
    have hlt : (s.LJ.toNat + 1) % s.C.toNat < s.C.toNat := Nat.mod_lt _ (by omega)
    rw [BitVec.toNat_ofNat, Nat.mod_eq_of_lt (by omega)]
  have hS := Memory.read_write_same s.S s.SI.toNat a
  have hL := Memory.read_write_same s.L s.LJ.toNat b
  have hotherS (i : Nat) (hne : i ≠ s.SI.toNat) := Memory.read_write_other s.S a hne
  have hotherL (j : Nat) (hne : j ≠ s.LJ.toNat) := Memory.read_write_other s.L b hne
  by_cases hlast : s.CNT - 1 = 0
  · rw [if_pos hlast] at hstep
    have hzero : s.CNT.toNat - 1 = 0 := by rw [← hdec, hlast]; rfl
    exact ⟨_, hstep, hS, hL, rfl, rfl, hotherS, hotherL, hsi, hlj, hdec, fun _ => ⟨rfl, rfl, rfl, rfl, rfl⟩,
      fun hne => absurd hzero hne, rfl, rfl, rfl, rfl, rfl, rfl⟩
  · rw [if_neg hlast] at hstep
    have hmore : s.CNT.toNat - 1 ≠ 0 := fun e => hlast (BitVec.eq_of_toNat_eq (hdec.trans e))
    exact ⟨_, hstep, hS, hL, rfl, rfl, hotherS, hotherL, hsi, hlj, hdec, fun hzero => absurd hzero hmore,
      fun _ => ⟨hp, rfl, rfl, rfl, rfl⟩, rfl, rfl, rfl, rfl, rfl, rfl⟩

/-- Settles O30: the run of `Building` states counts `stepsLeft` down, which tells the phase, to `KeyLoaded`, and
no micro-step of it touches what is outside the key schedule. -/
theorem loadkeyBuildsExpandedTable : Obligations.LoadkeyBuildsExpandedTable := by
  intro s key hp h1 h255
  obtain ⟨u, hu, hdone⟩ := acceptLoadkey_completes (key := key) { s with RESP_VALID := false } h1 h255
  have hkept := outsideKept_microRun (by simp [Phase.onBlock]) hu.1
  have hsteps := stepsLeft_acceptLoadkey (key := key) { s with RESP_VALID := false } h255
  rw [MIXN_eq, numWords_eq] at hsteps
  rw [hsteps] at hu
  exact ⟨_, u, exec_loadkey_of_key hp h1 h255, hu,
    fun k v hk hrun => PHASE_microRun_acceptLoadkey h1 h255 (hsteps ▸ hk) hrun, hdone.KEY_VALID, expand_length key,
    fun _ => hdone.read_S, hdone.RESP_VALID, hdone.responseFrame_eq, hkept.DOUT, hkept.schedule, hkept.replies⟩
end

section
/-! PROOFS. Each micro-step of `DEC` undoes the one of `ENC` at its index, so decryption undoes encryption
(42_decrypt.md R122, R126). -/

namespace Sys2Proof.Machine

/-! ### The primitives' inverses (43_primitives.md R136) -/

theorem sub32_add32 (x y : Word) : sub32 (add32 x y) y = x := BitVec.add_sub_cancel x y

theorem xor32_xor32 (x y : Word) : xor32 (xor32 x y) y = x := by
  rw [xor32, xor32, BitVec.xor_assoc, BitVec.xor_self, BitVec.xor_zero]

/-- Rotating right puts every bit back where rotating left by the same amount took it from. -/
theorem rotr_rotl (x : Word) (n : Nat) : rotr (rotl x n) n = x := by
  have hn : n % 32 < 32 := Nat.mod_lt _ (by decide)
  rw [rotl_eq_rotateLeft, rotr_eq_rotateRight]
  ext i hi
  rw [BitVec.getElem_rotateRight]
  split
  · have hback : ¬ n % 32 + i < n % 32 := by omega
    simp only [BitVec.getElem_rotateLeft, hback, dif_neg, not_false_eq_true, Nat.add_sub_cancel_left]
  · have hwrap : i - (32 - n % 32) < n % 32 := by omega
    have hindex : 32 - n % 32 + (i - (32 - n % 32)) = i := by omega
    simp only [BitVec.getElem_rotateLeft, hwrap, dif_pos, hindex]

/-- The inverse half-round undoes the half-round with the same other word and subkey (R122). -/
theorem inverse_halfRound (x y sk : Word) :
    xor32 (rotr (sub32 (add32 (rotl (xor32 x y) y.toNat) sk) sk) y.toNat) y = x := by
  rw [sub32_add32, rotr_rotl, xor32_xor32]

/-! ### The updates of `(A, B)` at each index (R114, R115, R124, R125) -/

/-- The four kinds of index: the two of the whitening, and the even and the odd ones of the rounds. -/
theorem index_cases (k : Nat) : k = 0 ∨ k = 1 ∨ 2 ≤ k ∧ k % 2 = 0 ∨ 2 ≤ k ∧ k % 2 = 1 := by omega

section
variable {k : Nat} (sk : Word) (ab : Word × Word)

theorem encUpdate_of_even (hk : 2 ≤ k) (he : k % 2 = 0) :
    encUpdate k sk ab = (add32 (rotl (xor32 ab.1 ab.2) ab.2.toNat) sk, ab.2) := by
  rw [encUpdate, if_neg (by omega), if_neg (by omega), if_pos he]

theorem encUpdate_of_odd (hk : 2 ≤ k) (ho : k % 2 = 1) :
    encUpdate k sk ab = (ab.1, add32 (rotl (xor32 ab.2 ab.1) ab.1.toNat) sk) := by
  rw [encUpdate, if_neg (by omega), if_neg (by omega), if_neg (by omega)]

theorem decUpdate_of_even (hk : 2 ≤ k) (he : k % 2 = 0) :
    decUpdate k sk ab = (xor32 (rotr (sub32 ab.1 sk) ab.2.toNat) ab.2, ab.2) := by
  rw [decUpdate, if_neg (by omega), if_neg (by omega), if_pos he]

theorem decUpdate_of_odd (hk : 2 ≤ k) (ho : k % 2 = 1) :
    decUpdate k sk ab = (ab.1, xor32 (rotr (sub32 ab.2 sk) ab.1.toNat) ab.1) := by
  rw [decUpdate, if_neg (by omega), if_neg (by omega), if_neg (by omega)]

theorem decUpdate_encUpdate (k : Nat) : decUpdate k sk (encUpdate k sk ab) = ab := by
  obtain ⟨a, b⟩ := ab
  rcases index_cases k with rfl | rfl | ⟨hk, he⟩ | ⟨hk, ho⟩
  · exact congrArg (·, b) (sub32_add32 a sk)
  · exact congrArg (a, ·) (sub32_add32 b sk)
  · rw [encUpdate_of_even sk _ hk he, decUpdate_of_even sk _ hk he, inverse_halfRound]
  · rw [encUpdate_of_odd sk _ hk ho, decUpdate_of_odd sk _ hk ho, inverse_halfRound]

end

/-- The micro-steps of `DEC` from index `k` down undo those of `ENC` up to it. -/
theorem decFrom_encUpTo (S : List Word) (k : Nat) (ab : Word × Word) :
    decFrom S k (encUpTo S (k + 1) ab) = ab := by
  induction k with
  | zero => exact decUpdate_encUpdate _ ab 0
  | succ k ih => rw [decFrom, encUpTo, decUpdate_encUpdate, ih]

/-! ### A block and its two words (R56, R57) -/

theorem blockA_blockBytes (a b : Word) : blockA (blockBytes a b) = a := le32_byteFields a

theorem blockB_blockBytes (a b : Word) : blockB (blockBytes a b) = b := le32_byteFields b

theorem blockBytes_words {blk : List Byte} (h : blk.length = 8) : blockBytes (blockA blk) (blockB blk) = blk := by
  match blk, h with
  | [b0, b1, b2, b3, b4, b5, b6, b7], _ =>
    exact congrArg₂ (· ++ ·) (unle32_le32 b0 b1 b2 b3) (unle32_le32 b4 b5 b6 b7)

/-- R126: decryption undoes encryption. -/
theorem decBlock_encBlock (S : List Word) {blk : List Byte} (h : blk.length = 8) :
    decBlock 12 S (encBlock 12 S blk) = blk := by
  rw [decBlock_eq_decFrom, encBlock_eq_encUpTo, blockA_blockBytes, blockB_blockBytes, Prod.mk.eta,
    decFrom_encUpTo S 25, blockBytes_words h]

end Sys2Proof.Machine
end

section
/-! PROOFS. ENCRYPT: its acceptance, its micro-steps one by one, its whole run, and the way back with DECRYPT
(41_encrypt.md R113 to R117, 42_decrypt.md R126, R127). -/

namespace Sys2Proof.Machine

/-! ### Acceptance and the whole run (R113, R117, R123, R127) -/

section
variable {s : State} {blk : List Byte} (hp : s.PHASE = .IDLE) (hk : s.KEY_VALID = true) (hl : blk.length = 8)
include hp hk hl

theorem exec_encrypt_of_block : exec (.encrypt blk) s = .next (acceptEncrypt blk { s with RESP_VALID := false }) :=
  blockCommand_of_block ((payloadFits_iff blk).2 (by omega)) hp hk _ hl

theorem exec_decrypt_of_block : exec (.decrypt blk) s = .next (acceptDecrypt blk { s with RESP_VALID := false }) :=
  blockCommand_of_block ((payloadFits_iff blk).2 (by omega)) hp hk _ hl

theorem encrypt_completes (hfull : Memory.full 26 s.S) : ∃ t u, exec (.encrypt blk) s = .next t ∧
    CompletesIn 26 t u ∧ BlockDone s (encBlock 12 (tableWords s.S 26) blk) u := by
  obtain ⟨u, hu, hdone⟩ := acceptEncrypt_completes hfull (s := { s with RESP_VALID := false }) rfl
  exact ⟨_, u, exec_encrypt_of_block hp hk hl, hu, hdone⟩

theorem decrypt_completes (hfull : Memory.full 26 s.S) : ∃ t u, exec (.decrypt blk) s = .next t ∧
    CompletesIn 26 t u ∧ BlockDone s (decBlock 12 (tableWords s.S 26) blk) u := by
  obtain ⟨u, hu, hdone⟩ := acceptDecrypt_completes hfull (s := { s with RESP_VALID := false }) rfl
  exact ⟨_, u, exec_decrypt_of_block hp hk hl, hu, hdone⟩

end

/-- A table that reads as a list is full up to the list's length. -/
theorem Memory.full_of_read {α : Type} {m : Memory α} {vs : List α}
    (h : ∀ i, i < vs.length → Memory.read m i = vs[i]?) : Memory.full vs.length m := fun i hi => by
  rw [h i hi, List.getElem?_eq_getElem hi, Option.isSome_some]

/-- What R117 and R127 list as unchanged. -/
theorem BlockFrame.kept {s u : State} (h : BlockFrame s u) :
    u.S = s.S ∧ u.KEY_VALID = s.KEY_VALID ∧ u.L = s.L ∧ u.KEYBUF = s.KEYBUF ∧ u.C = s.C ∧ u.KLEN = s.KLEN ∧
      u.LJ = s.LJ ∧ u.CNT = s.CNT ∧ u.schedule = s.schedule ∧ u.replies = s.replies := by
  rw [h]
  exact ⟨rfl, rfl, rfl, rfl, rfl, rfl, rfl, rfl, rfl, rfl⟩

/-- The response of a block command, byte by byte (R75). -/
theorem BlockDone.responseFrame_bytes {s₀ s : State} {data : List Byte} (h : BlockDone s₀ data s) :
    responseFrame s = .next (0#8 :: 8#8 :: data) := by
  rw [h.responseFrame_eq, answerFrame, h.length]
  rfl

/-! ### The micro-step, before the last index and at it (R114, R115) -/

section
variable {s : State} {sk : Word} (hp : s.PHASE = .ENC) (hsk : Memory.read s.S s.SI.toNat = some sk)
include hp hsk

theorem micro_enc_of_lt (hi : s.SI.toNat < 25) : micro s = .next { s with
    A := (encUpdate s.SI.toNat sk (s.A, s.B)).1, B := (encUpdate s.SI.toNat sk (s.A, s.B)).2, SI := s.SI + 1 } := by
  rw [micro_of_enc hp (by omega) hsk, if_neg (by omega), encMicro_eq]

theorem micro_enc_of_last (hi : s.SI.toNat = 25) : micro s = .next (completeBlock { s with
    B := add32 (rotl (xor32 s.B s.A) s.A.toNat) sk }) := by
  rw [micro_of_enc hp (by omega) hsk, if_pos hi, encMicro_eq, encUpdate_of_odd sk _ (by omega) (by omega)]

end

end Sys2Proof.Machine

open Sys2Proof Sys2Proof.Machine

/-- Settles O19: the two checks pass, and acceptance takes the block's two words. -/
theorem encryptAcceptance : Obligations.EncryptAcceptance :=
  fun _ _ _ _ _ _ _ _ _ hp hk => exec_encrypt_of_block hp hk rfl

/-- Settles O26: at the indices 0 and 1 the update adds the subkey. -/
theorem encryptWhitensWithFirstSubkeys : Obligations.EncryptWhitensWithFirstSubkeys := by
  refine fun s sk hp => ⟨fun hi hsk => ?_, fun hi hsk => ?_⟩
  · have hindex : s.SI.toNat = 0 := congrArg BitVec.toNat hi
    rw [micro_enc_of_lt hp (hindex ▸ hsk) (by omega), hi]
    rfl
  · have hindex : s.SI.toNat = 1 := congrArg BitVec.toNat hi
    rw [micro_enc_of_lt hp (hindex ▸ hsk) (by omega), hi]
    rfl

/-- Settles O27: from index 2 on the update is the half-round of the index's parity, and the last one is followed by
completion, which writes the eight bytes of `DOUT` and the response. -/
theorem encryptHalfRound : Obligations.EncryptHalfRound := by
  refine fun s sk hp h2 h25 hsk => ⟨fun he => ?_, fun ho hne => ?_, fun hlast => ?_⟩
  · rw [micro_enc_of_lt hp hsk (by omega), encUpdate_of_even sk _ h2 he]
  · rw [micro_enc_of_lt hp hsk (by omega), encUpdate_of_odd sk _ h2 ho]
  · refine ⟨_, micro_enc_of_last hp hsk hlast, rfl, rfl, fun k hk => ?_, fun k hk => ?_,
      rfl, rfl, rfl, rfl, rfl, rfl, rfl, rfl, rfl, rfl, rfl, rfl, rfl, rfl, rfl⟩
    · exact (Memory.read_writeList_zero _ _ k).trans (if_pos hk)
    · exact (Memory.read_writeList_zero _ _ k).trans (if_neg (Nat.not_lt.2 hk))

/-- Settles O31: the run of `Encrypting` states ends in `BlockDone`, and the table's words are the given ones. -/
theorem encryptComputesEncBlock : Obligations.EncryptComputesEncBlock := by
  intro s S blk hp hk hS hread hl
  rw [← hS] at hread
  have hfull := Memory.full_of_read hread
  have hwords := tableWords_eq_of_read hread
  rw [hS] at hfull hwords
  obtain ⟨t, u, hexec, hu, hdone⟩ := encrypt_completes hp hk hl hfull
  rw [hwords] at hdone
  exact ⟨t, u, hexec, hu, hdone.dout, hdone.RESP_VALID, hdone.responseFrame_bytes, hdone.frame.kept⟩

/-- Settles O35: the encryption leaves the table and the key in place, so the decryption is of the same table. -/
theorem encryptThenDecryptGivesBlockBack : Obligations.EncryptThenDecryptGivesBlockBack := by
  intro s blk hinv hp hk hl
  obtain ⟨-, hfull⟩ := hinv.keyed hk
  obtain ⟨t, u, hexec, hu, hdone⟩ := encrypt_completes hp hk hl hfull
  have hS := hdone.frame.S_eq
  have hk' := hdone.frame.KEY_VALID_eq.trans hk
  obtain ⟨t', u', hexec', hu', hdone'⟩ := decrypt_completes hdone.PHASE hk' hdone.length (hS ▸ hfull)
  rw [hS, decBlock_encBlock _ hl] at hdone'
  exact ⟨t, u, _, t', u', hexec, hu, hdone.responseFrame_bytes, hexec', hu', hdone'.responseFrame_bytes⟩
end

section
/-! PROOFS. DECRYPT: its acceptance, its micro-steps one by one, its whole run, and encryption as the inverse of
decryption (42_decrypt.md R123 to R127). -/

namespace Sys2Proof.Machine

/-! ### The other direction of the inverse law (R126) -/

/-- The micro-steps of `ENC` up to index `k` undo those of `DEC` from it down: on the finitely many pairs of words,
what `DEC` undoes is one-to-one, hence onto, so that its left inverse is its right inverse too. -/
theorem encUpTo_decFrom (S : List Word) (k : Nat) (ab : Word × Word) :
    encUpTo S (k + 1) (decFrom S k ab) = ab := by
  have hleft : Function.LeftInverse (decFrom S k) (encUpTo S (k + 1)) := decFrom_encUpTo S k
  have honto : Function.Surjective (encUpTo S (k + 1)) := Finite.surjective_of_injective hleft.injective
  exact hleft.rightInverse_of_surjective honto ab

/-- R126: encryption undoes decryption. -/
theorem encBlock_decBlock (S : List Word) {blk : List Byte} (h : blk.length = 8) :
    encBlock 12 S (decBlock 12 S blk) = blk := by
  rw [encBlock_eq_encUpTo, decBlock_eq_decFrom, blockA_blockBytes, blockB_blockBytes, Prod.mk.eta,
    encUpTo_decFrom S 25, blockBytes_words h]

/-! ### The micro-step, above index 0 and at it (R124, R125) -/

section
variable {s : State} {sk : Word} (hp : s.PHASE = .DEC) (hi : s.SI.toNat < 26)
  (hsk : Memory.read s.S s.SI.toNat = some sk)
include hp hi hsk

theorem micro_dec_of_pos (hpos : 0 < s.SI.toNat) : micro s = .next { s with
    A := (decUpdate s.SI.toNat sk (s.A, s.B)).1, B := (decUpdate s.SI.toNat sk (s.A, s.B)).2, SI := s.SI - 1 } := by
  rw [micro_of_dec hp hi hsk, if_neg (by omega), decMicro_eq]

theorem micro_dec_of_zero (hzero : s.SI.toNat = 0) :
    micro s = .next (completeBlock { s with A := sub32 s.A sk }) := by
  rw [micro_of_dec hp hi hsk, if_pos hzero, decMicro_eq, decUpdate, if_pos hzero]

end

end Sys2Proof.Machine

open Sys2Proof Sys2Proof.Machine

/-- Settles O32: the run of `Decrypting` states ends in `BlockDone`, and the table's words are the given ones. -/
theorem decryptComputesDecBlock : Obligations.DecryptComputesDecBlock := by
  intro s S blk hp hk hS hread hl
  have hwords : tableWords s.S 26 = S := hS ▸ tableWords_eq_of_read (hS.symm ▸ hread)
  have hfull : Memory.full 26 s.S := hS ▸ Memory.full_of_read (hS.symm ▸ hread)
  obtain ⟨t, u, hexec, hu, hdone⟩ := decrypt_completes hp hk hl hfull
  rw [hwords] at hdone
  exact ⟨t, u, hexec, hu, hdone.dout, hdone.RESP_VALID, hdone.responseFrame_bytes, hdone.frame.kept⟩

/-- Settles O34: each micro-step of `DEC` undoes the one of `ENC` at its index, and both directions follow. -/
theorem decryptionInvertsEncryption : Obligations.DecryptionInvertsEncryption :=
  fun S _ _ hl => ⟨decBlock_encBlock S hl, encBlock_decBlock S hl⟩

/-- Settles O20: the two checks pass, and acceptance takes the block's two words. -/
theorem decryptAcceptance : Obligations.DecryptAcceptance :=
  fun _ _ _ _ _ _ _ _ _ hp hk => exec_decrypt_of_block hp hk rfl

/-- Settles O28: from index 2 on the update is the inverse half-round of the index's parity. -/
theorem decryptHalfRound : Obligations.DecryptHalfRound := by
  refine fun s sk hp h2 h25 hsk => ⟨fun ho => ?_, fun he => ?_⟩
  · rw [micro_dec_of_pos hp (by omega) hsk (by omega), decUpdate_of_odd sk _ h2 ho]
  · rw [micro_dec_of_pos hp (by omega) hsk (by omega), decUpdate_of_even sk _ h2 he]

/-- Settles O29: at the indices 1 and 0 the update subtracts the subkey, and the one at 0 is followed by completion,
which writes the eight bytes of `DOUT` and the response. -/
theorem decryptUnwhitensAndCompletes : Obligations.DecryptUnwhitensAndCompletes := by
  refine fun s sk hp => ⟨fun hi hsk => ?_, fun hi hsk => ?_⟩
  · have hindex : s.SI.toNat = 1 := congrArg BitVec.toNat hi
    rw [micro_dec_of_pos hp (by omega) (hindex ▸ hsk) (by omega), hi]
    rfl
  · have hindex : s.SI.toNat = 0 := congrArg BitVec.toNat hi
    refine ⟨_, micro_dec_of_zero hp (by omega) (hindex ▸ hsk) hindex, rfl, rfl, fun k hk => ?_, fun k hk => ?_,
      rfl, rfl, rfl, rfl, rfl, rfl, rfl, rfl, rfl, rfl, rfl, rfl, rfl, rfl, rfl⟩
    · exact (Memory.read_writeList_zero _ _ k).trans (if_pos hk)
    · exact (Memory.read_writeList_zero _ _ k).trans (if_neg (Nat.not_lt.2 hk))
end

section
/-! PROOFS. The datapath primitives: the adder, the subtractor and XOR as numbers and bits, the rotator as a number, bit
by bit and in its laws (43_primitives.md R130 to R136). -/

namespace Sys2Proof.Machine

/-! ### The adder, the subtractor and XOR (R130, R131, R132) -/

theorem add32_add32_toNat (x y z : Word) :
    (add32 (add32 x y) z).toNat = (x.toNat + y.toNat + z.toNat) % 2 ^ 32 := by
  rw [add32_toNat, add32_toNat, Nat.mod_add_mod]

/-- R131: the remainder is not negative; a borrow adds `2^32`. -/
theorem sub32_toNat (x y : Word) : (sub32 x y).toNat =
    if y.toNat ≤ x.toNat then x.toNat - y.toNat else x.toNat + 2 ^ 32 - y.toNat := by
  have hx := x.isLt
  unfold sub32
  split
  · rename_i h
    exact BitVec.toNat_sub_of_le h
  · rename_i h
    rw [BitVec.toNat_sub_of_lt (Nat.lt_of_not_le h)]
    omega

/-- R132: bit by bit. -/
theorem xor32_getLsbD (x y : Word) (n : Nat) : (xor32 x y).getLsbD n = (x.getLsbD n != y.getLsbD n) :=
  BitVec.getLsbD_xor

/-! ### The rotator as a number (R133) -/

/-- What a rotation shifts out at the top fits below what it shifts up: adding the two parts carries nothing out. -/
theorem mul_mod_add_div_lt {x a b : Nat} (h : x < a * b) : x * a % (a * b) + x / b < a * b := by
  have hb : 0 < b := Nat.pos_of_lt_mul_left h
  have hlow : x / b < a := (Nat.div_lt_iff_lt_mul hb).2 h
  calc x * a % (a * b) + x / b
      = a * (x % b) + x / b := by rw [Nat.mul_comm x a, Nat.mul_mod_mul_left]
    _ < a * (x % b + 1) := by rw [Nat.mul_succ]; exact Nat.add_lt_add_left hlow _
    _ ≤ a * b := Nat.mul_le_mul_left a (Nat.mod_lt x hb)

theorem rotl_toNat (x : Word) (n : Nat) : (rotl x n).toNat =
    if n % 32 = 0 then x.toNat else x.toNat * 2 ^ (n % 32) % 2 ^ 32 + x.toNat / 2 ^ (32 - n % 32) := by
  have hwidth : 2 ^ (n % 32) * 2 ^ (32 - n % 32) = 2 ^ 32 := by
    rw [← Nat.pow_add, Nat.add_sub_of_le (Nat.mod_lt n (by decide)).le]
  have hfits := mul_mod_add_div_lt (hwidth.symm ▸ x.isLt)
  rw [hwidth] at hfits
  unfold rotl
  dsimp only
  split
  · rfl
  · rw [BitVec.toNat_add, BitVec.toNat_shiftLeft, BitVec.toNat_ushiftRight, Nat.shiftLeft_eq,
      Nat.shiftRight_eq_div_pow, Nat.mod_eq_of_lt hfits]

/-! ### The rotator bit by bit (R133) -/

/-- R133: the bit at `i` comes from `n mod 32` below it, round the word's end. -/
theorem getLsbD_rotl (x : Word) (n : Nat) {i : Nat} (hi : i < 32) :
    (rotl x n).getLsbD i = x.getLsbD ((i + (32 - n % 32)) % 32) := by
  have hn : n % 32 < 32 := Nat.mod_lt n (by decide)
  rw [rotl_eq_rotateLeft, BitVec.getLsbD_rotateLeft]
  by_cases hwrap : i < n % 32
  · have hsrc : 32 - n % 32 + i = (i + (32 - n % 32)) % 32 := by omega
    rw [decide_eq_true hwrap, cond_true, hsrc]
  · have hsrc : i - n % 32 = (i + (32 - n % 32)) % 32 := by omega
    rw [decide_eq_false hwrap, cond_false, decide_eq_true hi, Bool.true_and, hsrc]

/-! ### The right rotation as a left one (R134) -/

/-- The opposite of an amount that is not 0 modulo 32 is already reduced, and its own opposite is the amount. -/
theorem opposite_amount {n : Nat} (h : n % 32 ≠ 0) :
    (32 - n % 32) % 32 = 32 - n % 32 ∧ 32 - (32 - n % 32) = n % 32 := by omega

theorem rotr_eq_rotl (x : Word) (n : Nat) : rotr x n = rotl x (32 - n % 32) := by
  by_cases hzero : n % 32 = 0
  · rw [rotl_of_mod_eq_zero x (by omega), rotr, if_pos hzero]
  · obtain ⟨hmod, hback⟩ := opposite_amount hzero
    rw [rotr, rotl, if_neg hzero, if_neg (by omega), hmod, hback, BitVec.add_comm]

theorem rotr_toNat (x : Word) (n : Nat) : (rotr x n).toNat =
    if n % 32 = 0 then x.toNat else x.toNat / 2 ^ (n % 32) + x.toNat * 2 ^ (32 - n % 32) % 2 ^ 32 := by
  rw [rotr_eq_rotl, rotl_toNat]
  by_cases hzero : n % 32 = 0
  · rw [if_pos hzero, if_pos (by omega)]
  · obtain ⟨hmod, hback⟩ := opposite_amount hzero
    rw [if_neg hzero, if_neg (by omega), hmod, hback, Nat.add_comm]

theorem getLsbD_rotr (x : Word) (n : Nat) {i : Nat} (hi : i < 32) :
    (rotr x n).getLsbD i = x.getLsbD ((i + n % 32) % 32) := by
  have hsrc : (i + (32 - (32 - n % 32) % 32)) % 32 = (i + n % 32) % 32 := by omega
  rw [rotr_eq_rotl, getLsbD_rotl x _ hi, hsrc]

/-! ### The rotator's laws (R135, R136) -/

/-- Each bit goes up by the first amount and then by the second. -/
theorem rotl_rotl (x : Word) (n m : Nat) : rotl (rotl x n) m = rotl x (n + m) := by
  refine BitVec.eq_of_getLsbD_eq fun i hi => ?_
  have hsrc : ((i + (32 - m % 32)) % 32 + (32 - n % 32)) % 32 = (i + (32 - (n + m) % 32)) % 32 := by omega
  rw [getLsbD_rotl _ m hi, getLsbD_rotl x n (Nat.mod_lt _ (by decide)), getLsbD_rotl x (n + m) hi, hsrc]

theorem rotl_rotr (x : Word) (n : Nat) : rotl (rotr x n) n = x := by
  rw [rotr_eq_rotl, rotl_rotl, rotl_of_mod_eq_zero x (by omega)]

/-- Both sides read the same bit of `x` and of `y`. -/
theorem rotl_xor32 (x y : Word) (n : Nat) : rotl (xor32 x y) n = xor32 (rotl x n) (rotl y n) := by
  refine BitVec.eq_of_getLsbD_eq fun i hi => ?_
  rw [getLsbD_rotl _ n hi, xor32_getLsbD, xor32_getLsbD, getLsbD_rotl x n hi, getLsbD_rotl y n hi]

end Sys2Proof.Machine

open Sys2Proof Sys2Proof.Machine

/-- Settles O40: the two shifted parts add without a carry, and each bit moves up by the amount. -/
theorem rotateLeftMovesBits : Obligations.RotateLeftMovesBits := by
  refine fun x n => ⟨rotl_toNat x n, fun m hm => ?_, rotl_congr x (Nat.mod_mod n 32).symm⟩
  have hsrc : ((m + n % 32) % 32 + (32 - n % 32)) % 32 = m := by omega
  rw [getLsbD_rotl x n (Nat.mod_lt _ (by decide)), hsrc]

/-- Settles O41: ROTR is the left rotation by what is missing to 32, so its number and its bits follow from ROTL's. -/
theorem rotateRightMovesBits : Obligations.RotateRightMovesBits := fun x n =>
  ⟨rotr_toNat x n, fun _ hm => getLsbD_rotr x n hm,
    (rotr_eq_rotl x n).trans (rotl_congr x (Nat.mod_mod _ 32).symm)⟩

/-- Settles O42. Against the fifth law: `0x80000000` twice adds to 0, and rotated left by 1 each is 1. -/
theorem rotatorLaws : Obligations.RotatorLaws :=
  ⟨fun x n => ⟨rotr_rotl x n, rotl_rotr x n⟩, rotl_rotl, fun x n => rotl_congr x (Nat.add_mod_right n 32).symm,
    rotl_xor32, 0x80000000, 0x80000000, 1, by decide⟩

/-- Settles O39, from the primitives' numbers and the bit vectors' group laws. -/
theorem adderSubtractorXor : Obligations.AdderSubtractorXor := fun x y z =>
  ⟨add32_toNat x y, BitVec.add_comm x y, BitVec.add_assoc x y z, add32_add32_toNat x y z, sub32_toNat x y,
    sub32_add32 x y, BitVec.sub_add_cancel x y, xor32_getLsbD x y, xor32_xor32 x y, BitVec.xor_comm x y,
    BitVec.add_zero x, rfl, rfl, BitVec.sub_zero x, rfl, BitVec.sub_self x, BitVec.xor_self, BitVec.xor_zero⟩

/-- Settles O43: the amount reduces to 0, and so does what is missing to 32. -/
theorem rotationByZeroIsIdentity : Obligations.RotationByZeroIsIdentity := by
  refine fun x k => ⟨rotl_of_mod_eq_zero x (Nat.mul_mod_right 32 k), ?_⟩
  rw [rotr_eq_rotl, rotl_of_mod_eq_zero x (by omega)]
end

section
/-! PROOFS. The faults of a micro-step whose table index or counter is out of range (43_primitives.md R141, R159). -/

namespace Sys2Proof.Machine

/-- A read in range of an element that holds a value. -/
theorem readAt_of_isSome {α : Type} {sp : Space} {m : Memory α} {i : Nat} (hi : i < sp.size)
    (h : (Memory.read m i).isSome = true) : ∃ v, readAt sp m i = .next v := by
  obtain ⟨v, hv⟩ := Option.isSome_iff_exists.1 h
  exact ⟨v, readAt_next.2 ⟨hi, hv⟩⟩

/-- A read below the live count is a read of the storage. -/
theorem readLive_of_lt {α : Type} {sp : Space} {m : Memory α} {live i : Nat} (h : i < live) :
    readLive sp m live i = readAt sp m i := if_pos h

theorem writeAt_out_of_range {α : Type} {sp : Space} {m : Memory α} {i : Nat} {v : α} (h : sp.size ≤ i) :
    writeAt sp m i v = .fault (.indexOutOfRange sp i) := if_neg (Nat.not_lt.2 h)

/-- The down counter (R23), not yet at 0. -/
theorem cnt_ne_zero {c : BitVec 8} (h : 1 ≤ c.toNat) : c ≠ 0 := by
  rintro rfl
  exact absurd h (by decide)

section
variable {s : State}

/-! ### `K_PACK` (R97) -/

theorem kPack_counterUnderflow (h : s.CNT = 0) : kPack s = .fault .counterUnderflow := if_pos h

theorem kPack_keybuf_out_of_range (hc : 1 ≤ s.CNT.toNat) (h : s.KLEN.toNat ≤ s.CNT.toNat - 1) :
    kPack s = .fault (.indexOutOfRange .KEYBUF (s.CNT.toNat - 1)) := by
  rw [kPack, if_neg (cnt_ne_zero hc)]
  dsimp only
  rw [readLive_out_of_range h, andThen_of_fault]

theorem kPack_l_out_of_range (hc : 1 ≤ s.CNT.toNat) (hk : s.CNT.toNat - 1 < s.KLEN.toNat)
    (hb : (Memory.read s.KEYBUF (s.CNT.toNat - 1)).isSome = true) (h : s.C.toNat ≤ (s.CNT.toNat - 1) / 4) :
    kPack s = .fault (.indexOutOfRange .L ((s.CNT.toNat - 1) / 4)) := by
  have hrange : s.CNT.toNat - 1 < Space.KEYBUF.size := by
    have := s.CNT.isLt
    rw [size_KEYBUF]
    omega
  obtain ⟨byte, hbyte⟩ := readAt_of_isSome hrange hb
  rw [kPack, if_neg (cnt_ne_zero hc)]
  dsimp only
  rw [readLive_of_lt hk, hbyte, andThen_of_next, readLive_out_of_range h, andThen_of_fault]

/-! ### `K_INIT` (R98) -/

theorem kInit_read_out_of_range (h : 26 < s.SI.toNat) :
    kInit s = .fault (.indexOutOfRange .S (s.SI.toNat - 1)) := by
  have hrange : Space.S.size ≤ s.SI.toNat - 1 := Nat.le_sub_one_of_lt h
  rw [kInit, initValue, if_neg (by omega), readAt_out_of_range hrange, andThen_of_fault, andThen_of_fault]

/-- At index `T` the word before is read, and the write is out of range. -/
theorem kInit_write_out_of_range (h : s.SI.toNat = 26) (hv : (Memory.read s.S 25).isSome = true) :
    kInit s = .fault (.indexOutOfRange .S 26) := by
  obtain ⟨v, hread⟩ := readAt_of_isSome (sp := .S) (by decide) hv
  rw [kInit, initValue, h, if_neg (by decide), hread, andThen_of_next, andThen_of_next,
    writeAt_out_of_range (Nat.le_refl 26), andThen_of_fault]

/-! ### `K_MIX` (R99) -/

theorem kMix_counterUnderflow (h : s.CNT = 0) : kMix s = .fault .counterUnderflow := if_pos h

theorem kMix_s_out_of_range (hc : 1 ≤ s.CNT.toNat) (h : 26 ≤ s.SI.toNat) :
    kMix s = .fault (.indexOutOfRange .S s.SI.toNat) := by
  rw [kMix, if_neg (cnt_ne_zero hc), readAt_out_of_range h, andThen_of_fault]

theorem kMix_l_out_of_range (hc : 1 ≤ s.CNT.toNat) (hs : s.SI.toNat < 26)
    (hv : (Memory.read s.S s.SI.toNat).isSome = true) (h : s.C.toNat ≤ s.LJ.toNat) :
    kMix s = .fault (.indexOutOfRange .L s.LJ.toNat) := by
  obtain ⟨v, hread⟩ := readAt_of_isSome (sp := .S) hs hv
  rw [kMix, if_neg (cnt_ne_zero hc), hread, andThen_of_next, readLive_out_of_range h, andThen_of_fault]

/-! ### `ENC` and `DEC` (R114, R115, R124, R125) -/

theorem encStep_out_of_range (h : 26 ≤ s.SI.toNat) : encStep s = .fault (.indexOutOfRange .S s.SI.toNat) := by
  rw [encStep, readAt_out_of_range h, andThen_of_fault]

theorem decStep_out_of_range (h : 26 ≤ s.SI.toNat) : decStep s = .fault (.indexOutOfRange .S s.SI.toNat) := by
  rw [decStep, readAt_out_of_range h, andThen_of_fault]

end

end Sys2Proof.Machine

open Sys2Proof Sys2Proof.Machine

/-- Settles O60: each phase's micro-step meets the access that is out of range before it writes anything. -/
theorem outOfRangeIndexFaults : Obligations.OutOfRangeIndexFaults := by
  refine fun s => ⟨?_, fun hp hc hk => ?_, fun hp hc hk hb hq => ?_, fun hp hi => ?_, fun hp hi hv => ?_,
    fun hp hc hi => ?_, fun hp hc hi hv hl => ?_, ?_⟩
  · rintro (hp | hp) hc
    · exact (micro_of_packing hp).trans (kPack_counterUnderflow (BitVec.eq_of_toNat_eq hc))
    · exact (micro_of_mixing hp).trans (kMix_counterUnderflow (BitVec.eq_of_toNat_eq hc))
  · exact (micro_of_packing hp).trans (kPack_keybuf_out_of_range hc hk)
  · exact (micro_of_packing hp).trans (kPack_l_out_of_range hc hk hb hq)
  · exact (micro_of_filling hp).trans (kInit_read_out_of_range hi)
  · exact (micro_of_filling hp).trans (kInit_write_out_of_range hi hv)
  · exact (micro_of_mixing hp).trans (kMix_s_out_of_range hc hi)
  · exact (micro_of_mixing hp).trans (kMix_l_out_of_range hc hi hv hl)
  · rintro (hp | hp) hi
    · exact (micro_of_encrypting hp).trans (encStep_out_of_range hi)
    · exact (micro_of_decrypting hp).trans (decStep_out_of_range hi)
end

section
/-! PROOFS. The errors: the acceptance checks and their order, and that a busy engine raises none (60_exceptions.md R150
to R157). -/

namespace Sys2Proof.Machine

/-! ### LOADKEY in `IDLE` (R151) -/

theorem exec_loadkey_nil {s : State} (hp : s.PHASE = .IDLE) :
    exec (.loadkey []) s = .next (raise .INVALID_KEY s) := execLoadkey_next.2 ⟨rfl, hp, rfl⟩

/-! ### The two block commands in `IDLE` (R152, R153, R157) -/

section
variable {i : Instr} {s : State} {blk : List Byte} (hi : i = .encrypt blk ∨ i = .decrypt blk)
  (hp : s.PHASE = .IDLE) (hfits : blk.length ≤ 255)
include hi hp hfits

theorem exec_block_of_no_key (hk : s.KEY_VALID = false) : exec i s = .next (raise .NO_KEY s) := by
  have hw := (payloadFits_iff blk).2 hfits
  rcases hi with rfl | rfl
  · exact blockCommand_of_no_key hw hp hk (acceptEncrypt blk)
  · exact blockCommand_of_no_key hw hp hk (acceptDecrypt blk)

theorem exec_block_of_wrong_length (hk : s.KEY_VALID = true) (hl : blk.length ≠ 8) :
    exec i s = .next (raise .INVALID_LENGTH s) := by
  have hw := (payloadFits_iff blk).2 hfits
  rcases hi with rfl | rfl
  · exact blockCommand_of_wrong_length hw hp hk (acceptEncrypt blk) hl
  · exact blockCommand_of_wrong_length hw hp hk (acceptDecrypt blk) hl

end

/-! ### Acceptance (R36) -/

/-- `s` takes the command `i`: it leaves `IDLE` with no response. -/
def Accepted (i : Instr) (s : State) : Prop :=
  ∃ t, exec i s = .next t ∧ t.PHASE ≠ .IDLE ∧ t.RESP_VALID = false ∧ t.schedule = s.schedule

theorem accepted_loadkey {s : State} {key : List Byte} (hp : s.PHASE = .IDLE) (h1 : 1 ≤ key.length)
    (h255 : key.length ≤ 255) : Accepted (.loadkey key) s :=
  ⟨_, exec_loadkey_of_key hp h1 h255, nofun, rfl, rfl⟩

theorem accepted_block {i : Instr} {s : State} {blk : List Byte} (hi : i = .encrypt blk ∨ i = .decrypt blk)
    (hp : s.PHASE = .IDLE) (hk : s.KEY_VALID = true) (hl : blk.length = 8) : Accepted i s := by
  rcases hi with rfl | rfl
  · exact ⟨_, exec_encrypt_of_block hp hk hl, nofun, rfl, rfl⟩
  · exact ⟨_, exec_decrypt_of_block hp hk hl, nofun, rfl, rfl⟩

/-! ### The response registers in a micro-step (R150, R154) -/

/-- Nothing that a response consists of changes (R35, R29). -/
structure ResponseKept (s t : State) : Prop where
  RESP_VALID : t.RESP_VALID = s.RESP_VALID
  RESP_STATUS : t.RESP_STATUS = s.RESP_STATUS
  RESP_LEN : t.RESP_LEN = s.RESP_LEN
  DOUT : t.DOUT = s.DOUT

/-- `respond OK(n)` (R154): the command ends, without an error. -/
structure CompletedOk (n : BitVec 4) (t : State) : Prop where
  PHASE : t.PHASE = .IDLE
  RESP_VALID : t.RESP_VALID = true
  RESP_STATUS : t.RESP_STATUS = .OK
  RESP_LEN : t.RESP_LEN = n

/-- The key schedule says nothing before its last micro-step (R97 to R100). -/
theorem micro_expanding_response {s t : State} (hp : s.PHASE.expanding) (h : micro s = .next t) :
    s.PHASE = .K_MIX ∧ CompletedOk 0 t ∨ t.PHASE ≠ .IDLE ∧ ResponseKept s t := by
  rcases hp with hp | hp | hp
  · obtain ⟨_, _, _, _, _, _, _, rfl⟩ := kPack_next.1 (micro_of_packing hp ▸ h)
    split
    · exact .inr ⟨nofun, rfl, rfl, rfl, rfl⟩
    · exact .inr ⟨by simp [hp], rfl, rfl, rfl, rfl⟩
  · obtain ⟨_, _, _, rfl⟩ := kInit_next.1 (micro_of_filling hp ▸ h)
    split
    · exact .inr ⟨nofun, rfl, rfl, rfl, rfl⟩
    · exact .inr ⟨by simp [hp], rfl, rfl, rfl, rfl⟩
  · obtain ⟨_, _, _, _, _, _, _, _, _, _, _, rfl⟩ := kMix_next.1 (micro_of_mixing hp ▸ h)
    split
    · exact .inl ⟨hp, rfl, rfl, rfl, rfl⟩
    · exact .inr ⟨by simp [hp], rfl, rfl, rfl, rfl⟩

/-- Nor does a block command (R114, R115, R124, R125). -/
theorem micro_onBlock_response {s t : State} (hp : s.PHASE.onBlock) (h : micro s = .next t) :
    CompletedOk 8 t ∨ t.PHASE ≠ .IDLE ∧ ResponseKept s t := by
  obtain ⟨a, b, next, -, rfl⟩ := eq_blockMove_of_micro hp h
  cases next with
  | none => exact .inl ⟨rfl, rfl, rfl, rfl⟩
  | some i =>
    have hbusy : s.PHASE ≠ .IDLE := by rcases hp with hp | hp <;> simp [hp]
    exact .inr ⟨hbusy, rfl, rfl, rfl, rfl⟩

/-- A micro-step of a busy engine completes its command without an error, or leaves the response alone. -/
theorem micro_busy_response {s t : State} (hp : s.PHASE ≠ .IDLE) (h : micro s = .next t) :
    CompletedOk (if s.PHASE = .K_MIX then 0 else 8) t ∨ t.PHASE ≠ .IDLE ∧ ResponseKept s t := by
  rcases s.PHASE.idle_or_expanding_or_onBlock with hidle | hkey | hblock
  · exact absurd hidle hp
  · rcases micro_expanding_response hkey h with ⟨hmix, hdone⟩ | hkept
    · exact .inl (by rwa [if_pos hmix])
    · exact .inr hkept
  · have hmix : s.PHASE ≠ .K_MIX := by rcases hblock with hp | hp <;> simp [hp]
    rw [if_neg hmix]
    exact micro_onBlock_response hblock h

end Sys2Proof.Machine

open Sys2Proof Sys2Proof.Machine

/-- Settles O57: a micro-step of a busy engine completes with `OK` or leaves the response alone. -/
theorem busyEngineNeverRaises : Obligations.BusyEngineNeverRaises := by
  intro s t hp h
  rcases micro_busy_response hp h with hdone | ⟨hbusy, hkept⟩
  · exact ⟨fun _ => ⟨hdone.RESP_VALID, hdone.RESP_STATUS, hdone.RESP_LEN⟩, fun hne => absurd hdone.PHASE hne⟩
  · exact ⟨fun hidle => absurd hidle hbusy,
      fun _ => ⟨hkept.RESP_VALID, hkept.RESP_STATUS, hkept.RESP_LEN, hkept.DOUT⟩⟩

/-- Settles O18: the empty key is raised, any other that fits is accepted into `K_PACK`. -/
theorem onlyEmptyKeyIsInvalid : Obligations.OnlyEmptyKeyIsInvalid := by
  refine fun s key hp h255 => ⟨?_, fun hne => ?_⟩
  · rintro rfl
    exact exec_loadkey_nil hp
  · exact ⟨_, exec_loadkey_of_key hp (List.length_pos_iff.2 hne) h255, rfl, rfl⟩

/-- Settles O21: the key check comes first, whatever the length. -/
theorem blockCommandWithoutKeyAnswersNoKey : Obligations.BlockCommandWithoutKeyAnswersNoKey :=
  fun _ _ hp hk hfits =>
    ⟨exec_block_of_no_key (.inl rfl) hp hfits hk, exec_block_of_no_key (.inr rfl) hp hfits hk⟩

/-- Settles O22: with a key, the length check decides. -/
theorem wrongLengthAnswersInvalidLength : Obligations.WrongLengthAnswersInvalidLength :=
  fun _ _ hp hk hfits hl =>
    ⟨exec_block_of_wrong_length (.inl rfl) hp hfits hk hl, exec_block_of_wrong_length (.inr rfl) hp hfits hk hl⟩

namespace Sys2Proof.Machine

/-! ### A whole frame in `IDLE` -/

section
variable {s : State} {op : Byte} {pay : List Byte} {later : List Turn} (hfits : pay.length ≤ 255)
  (hp : s.PHASE = .IDLE) (hturn : s.schedule = .issue (frameBytes op pay) :: later)
include hfits hp hturn

/-- LOADKEY's opcode runs LOADKEY (R72). -/
theorem step_of_loadkeyFrame (h1 : op = 0x01#8) : step s = exec (.loadkey pay) { s with schedule := later } := by
  subst h1
  exact stepRunsDecodedCommand s (.loadkey pay) later ((payloadFits_iff pay).2 hfits) hp hturn

/-- The other opcodes that are not reserved run a block command (R72). -/
theorem step_of_blockFrame (hop : ¬ (op ≠ 0x01#8 ∧ op ≠ 0x02#8 ∧ op ≠ 0x03#8)) (h1 : op ≠ 0x01#8) :
    ∃ i, (i = .encrypt pay ∨ i = .decrypt pay) ∧ step s = exec i { s with schedule := later } := by
  have hw := (payloadFits_iff pay).2 hfits
  by_cases h2 : op = 0x02#8
  · subst h2
    exact ⟨_, .inl rfl, stepRunsDecodedCommand s (.encrypt pay) later hw hp hturn⟩
  · obtain rfl : op = 0x03#8 := not_not.1 fun h3 => hop ⟨h1, h2, h3⟩
    exact ⟨_, .inr rfl, stepRunsDecodedCommand s (.decrypt pay) later hw hp hturn⟩

end

end Sys2Proof.Machine

/-- Settles O7: the decoder tells the command, and the command's own checks come in the order of the chain. -/
theorem acceptanceChecksInOrder : Obligations.AcceptanceChecksInOrder := by
  intro s op pay later hfits hp hturn ends
  split_ifs with hreserved hempty hkey hlen
  · obtain ⟨h1, h2, h3⟩ := hreserved
    exact reservedFrameAnswersIllegalCommand s op pay later h1 h2 h3 hfits hp hturn
  · obtain ⟨h1, hzero⟩ := hempty
    obtain rfl := List.length_eq_zero_iff.1 hzero
    exact (step_of_loadkeyFrame hfits hp hturn h1).trans (exec_loadkey_nil hp)
  · obtain ⟨h1, hoff⟩ := hkey
    obtain ⟨i, hi, hstep⟩ := step_of_blockFrame hfits hp hturn hreserved h1
    exact hstep.trans (exec_block_of_no_key hi hp hfits hoff)
  · obtain ⟨h1, hl⟩ := hlen
    obtain ⟨i, hi, hstep⟩ := step_of_blockFrame hfits hp hturn hreserved h1
    have hon : s.KEY_VALID = true := eq_true_of_ne_false fun hoff => hkey ⟨h1, hoff⟩
    exact hstep.trans (exec_block_of_wrong_length hi hp hfits hon hl)
  · by_cases h1 : op = 0x01#8
    · rw [step_of_loadkeyFrame hfits hp hturn h1]
      exact accepted_loadkey hp (Nat.one_le_iff_ne_zero.2 fun hzero => hempty ⟨h1, hzero⟩) hfits
    · obtain ⟨i, hi, hstep⟩ := step_of_blockFrame hfits hp hturn hreserved h1
      have hon : s.KEY_VALID = true := eq_true_of_ne_false fun hoff => hkey ⟨h1, hoff⟩
      have hl : pay.length = 8 := not_not.1 fun hl => hlen ⟨h1, hl⟩
      rw [hstep]
      exact accepted_block hi hp hon hl
end

section
/-! PROOFS. Reset, frames the host does not finish, and that every command in progress completes
(70_reset_and_hazards.md R180 to R192). -/

namespace Sys2Proof.Machine

/-! ### Reset (R180 to R185) -/

/-- In a table to which nothing was written, every element in range holds no value (R183, R184). -/
theorem readAt_nil {α : Type} {sp : Space} {i : Nat} (h : i < sp.size) :
    readAt sp ([] : Memory α) i = .fault (.noValue sp i) := by
  rw [readAt, if_pos h, Memory.read_nil]

/-- The machine's run, by its first step. -/
theorem run_succ_of_step {s t : State} (n : Nat) (h : step s = .next t) :
    Host.Core.run Sys2Proof.core (n + 1) s = Host.Core.run Sys2Proof.core n t := by
  have hcore : Sys2Proof.core.step s = .next t := h
  simp only [Host.Core.run, hcore]

/-- A block command's frame to an idle engine without a key, whatever its length (R153). -/
theorem step_of_blockFrame_of_no_key {s : State} {op : Byte} {pay : List Byte} {later : List Turn}
    (hop : op = 0x02#8 ∨ op = 0x03#8) (hfits : pay.length ≤ 255) (hp : s.PHASE = .IDLE) (hk : s.KEY_VALID = false)
    (hturn : s.schedule = .issue (frameBytes op pay) :: later) :
    step s = .next (raise .NO_KEY { s with schedule := later }) := by
  have hnotReserved : ¬ (op ≠ 0x01#8 ∧ op ≠ 0x02#8 ∧ op ≠ 0x03#8) :=
    fun ⟨_, h2, h3⟩ => hop.elim h2 h3
  have hnotLoadkey : op ≠ 0x01#8 := by rcases hop with rfl | rfl <;> decide
  obtain ⟨i, hi, hstep⟩ := step_of_blockFrame hfits hp hturn hnotReserved hnotLoadkey
  exact hstep.trans (exec_block_of_no_key hi hp hfits hk)

/-! ### The micro-steps left, phase by phase (R191) -/

section
variable {s : State}

theorem stepsLeft_of_packing (h : s.PHASE = .K_PACK) :
    stepsLeft s = s.CNT.toNat + 26 + Config.MIXN s.C.toNat := by
  simp only [stepsLeft, h, T_eq]

theorem stepsLeft_of_filling (h : s.PHASE = .K_INIT) :
    stepsLeft s = (26 - s.SI.toNat) + Config.MIXN s.C.toNat := by
  simp only [stepsLeft, h, T_eq]

theorem stepsLeft_of_mixing (h : s.PHASE = .K_MIX) : stepsLeft s = s.CNT.toNat := by
  simp only [stepsLeft, h]

theorem stepsLeft_of_encrypting (h : s.PHASE = .ENC) : stepsLeft s = 26 - s.SI.toNat := by
  simp only [stepsLeft, h, T_eq]

theorem stepsLeft_of_decrypting (h : s.PHASE = .DEC) : stepsLeft s = s.SI.toNat + 1 := by
  simp only [stepsLeft, h]

end

/-- R192: the longest command has a 255-byte key, 255 + 26 + 192 micro-steps. -/
theorem Inv.stepsLeft_le {s : State} (h : Inv s) : stepsLeft s ≤ 473 := by
  have hmix (hp : s.PHASE.expanding) : Config.MIXN s.C.toNat ≤ 192 :=
    (MIXN_bounds (h.keyHeld hp).words_bounds.2).2
  have hkey := s.KLEN.isLt
  have hindex := s.SI.isLt
  cases hp : s.PHASE with
  | IDLE => rw [stepsLeft_of_idle hp]; omega
  | K_PACK =>
    have := hmix (.inl hp)
    have := h.packing hp
    rw [stepsLeft_of_packing hp]; omega
  | K_INIT =>
    have := hmix (.inr (.inl hp))
    rw [stepsLeft_of_filling hp]; omega
  | K_MIX =>
    have := hmix (.inr (.inr hp))
    have := h.mixing hp
    rw [stepsLeft_of_mixing hp]; omega
  | ENC => rw [stepsLeft_of_encrypting hp]; omega
  | DEC => rw [stepsLeft_of_decrypting hp]; omega

/-! ### Each micro-step of a busy engine counts down (R191) -/

theorem toNat_eq_sub_one_add_one {c : BitVec 8} (h : c ≠ 0) : c.toNat = (c - 1).toNat + 1 := by bv_omega

section
variable {s t : State} (ht : micro s = .next t)
include ht

/-- `K_PACK` counts `CNT` down; its last step leaves the whole of `K_INIT` and `K_MIX` (R97). -/
theorem stepsLeft_micro_packing (hp : s.PHASE = .K_PACK) : stepsLeft s = stepsLeft t + 1 := by
  obtain ⟨hcnt, _, _, _, _, _, _, rfl⟩ := kPack_next.1 (micro_of_packing hp ▸ ht)
  split
  · rename_i hlast
    rw [cnt_sub_one_eq_zero] at hlast
    have hfirst : (0 : BitVec 5).toNat = 0 := rfl
    simp only [stepsLeft_of_packing, stepsLeft_of_filling, hp, hlast, hfirst]
    omega
  · have hdec := toNat_eq_sub_one_add_one hcnt
    simp only [stepsLeft_of_packing, hp]
    omega

/-- `K_INIT` counts `SI` up; its last step sets `CNT` to `MIXN`, which fits (R98). -/
theorem stepsLeft_micro_filling (hp : s.PHASE = .K_INIT) (hc : s.C.toNat ≤ 64) :
    stepsLeft s = stepsLeft t + 1 := by
  obtain ⟨hi, _, _, rfl⟩ := kInit_next.1 (micro_of_filling hp ▸ ht)
  split
  · rename_i hlast
    have hfits := (MIXN_bounds hc).2
    have hcount : (BitVec.ofNat 8 (Config.MIXN s.C.toNat)).toNat = Config.MIXN s.C.toNat := by
      rw [BitVec.toNat_ofNat, Nat.mod_eq_of_lt (by omega)]
    simp only [stepsLeft_of_filling, stepsLeft_of_mixing, hp, hlast, hcount]
    omega
  · have hnext : (s.SI + 1).toNat = s.SI.toNat + 1 := by bv_omega
    simp only [stepsLeft_of_filling, hp, hnext]
    omega

/-- `K_MIX` counts `CNT` down to completion (R99, R100). -/
theorem stepsLeft_micro_mixing (hp : s.PHASE = .K_MIX) : stepsLeft s = stepsLeft t + 1 := by
  obtain ⟨hcnt, _, _, _, _, _, _, _, _, _, _, rfl⟩ := kMix_next.1 (micro_of_mixing hp ▸ ht)
  split
  · rename_i hlast
    rw [cnt_sub_one_eq_zero] at hlast
    rw [stepsLeft_of_mixing hp, stepsLeft_of_idle rfl, hlast]
  · have hdec := toNat_eq_sub_one_add_one hcnt
    simp only [stepsLeft_of_mixing, hp]
    omega

/-- `ENC` counts `SI` up to completion at 25 (R114, R115). -/
theorem stepsLeft_micro_encrypting (hp : s.PHASE = .ENC) : stepsLeft s = stepsLeft t + 1 := by
  have hphase := micro_PHASE ht
  simp only [hp] at hphase
  obtain ⟨hi, _, _, hmove⟩ := encStep_next.1 (micro_of_encrypting hp ▸ ht)
  by_cases hlast : s.SI.toNat = 25
  · rw [if_pos hlast] at hphase
    rw [stepsLeft_of_encrypting hp, stepsLeft_of_idle hphase, hlast]
  · rw [if_neg hlast] at hphase hmove
    have hindex : t.SI = s.SI + 1 := by rw [hmove]
    have hnext : (s.SI + 1).toNat = s.SI.toNat + 1 := by bv_omega
    rw [stepsLeft_of_encrypting hp, stepsLeft_of_encrypting hphase, hindex, hnext]
    omega

/-- `DEC` counts `SI` down to completion at 0 (R124, R125). -/
theorem stepsLeft_micro_decrypting (hp : s.PHASE = .DEC) : stepsLeft s = stepsLeft t + 1 := by
  have hphase := micro_PHASE ht
  simp only [hp] at hphase
  obtain ⟨_, _, _, hmove⟩ := decStep_next.1 (micro_of_decrypting hp ▸ ht)
  by_cases hlast : s.SI.toNat = 0
  · rw [if_pos hlast] at hphase
    rw [stepsLeft_of_decrypting hp, stepsLeft_of_idle hphase, hlast]
  · rw [if_neg hlast] at hphase hmove
    have hindex : t.SI = s.SI - 1 := by rw [hmove]
    have hnext : s.SI.toNat = (s.SI - 1).toNat + 1 := by bv_omega
    rw [stepsLeft_of_decrypting hp, stepsLeft_of_decrypting hphase, hindex, hnext]

theorem stepsLeft_micro (h : Inv s) (hbusy : s.PHASE ≠ .IDLE) : stepsLeft s = stepsLeft t + 1 := by
  cases hp : s.PHASE with
  | IDLE => exact absurd hp hbusy
  | K_PACK => exact stepsLeft_micro_packing ht hp
  | K_INIT => exact stepsLeft_micro_filling ht hp (h.keyHeld (.inr (.inl hp))).words_bounds.2
  | K_MIX => exact stepsLeft_micro_mixing ht hp
  | ENC => exact stepsLeft_micro_encrypting ht hp
  | DEC => exact stepsLeft_micro_decrypting ht hp

end

/-! ### A command in progress completes (R191, R192) -/

/-- A command is in progress, and the invariants hold (R37, R43). -/
structure InProgress (s : State) : Prop where
  inv : Inv s
  busy : s.PHASE ≠ .IDLE

/-- A command in progress goes on, or completes with `OK`. -/
theorem InProgress.step {s : State} (h : InProgress s) :
    ∃ t, micro s = .next t ∧ stepsLeft s = stepsLeft t + 1 ∧ (InProgress t ∨ ∃ n, CompletedOk n t) := by
  obtain ⟨t, ht⟩ := h.inv.micro_total
  refine ⟨t, ht, stepsLeft_micro ht h.inv h.busy, ?_⟩
  rcases micro_busy_response h.busy ht with hdone | ⟨hbusy, _⟩
  · exact .inr ⟨_, hdone⟩
  · exact .inl ⟨h.inv.micro ht, hbusy⟩

theorem InProgress.completes {s : State} (h : InProgress s) :
    ∃ u, CompletesIn (stepsLeft s) s u ∧ ∃ n, CompletedOk n u :=
  completesIn_of_steps (fun _ => InProgress.step) (fun _ ⟨_, hdone⟩ => hdone.PHASE) h

end Sys2Proof.Machine

open Sys2Proof Sys2Proof.Machine

/-- Settles O16: reset leaves an idle engine without a key, and the block command's frame meets that engine. -/
theorem blockCommandAfterResetAnswersNoKey : Obligations.BlockCommandAfterResetAnswersNoKey := by
  intro s op pay later hop hfits hturn
  have hreset := step_of_reset hturn
  have hissue := step_of_blockFrame_of_no_key hop hfits (resetEngine_PHASE _) (resetEngine_KEY_VALID _)
    (resetEngine_schedule { s with schedule := .issue (frameBytes op pay) :: later })
  exact ⟨_, (run_succ_of_step 1 hreset).trans (run_succ_of_step 0 hissue), rfl, rfl, rfl, rfl, rfl⟩

/-- Settles O52: each micro-step of a command in progress counts `stepsLeft` down, and the last completes it with
`OK`; an idle engine has none to go. -/
theorem everyCommandTerminates : Obligations.EveryCommandTerminates := by
  refine fun s hinv => ⟨hinv.stepsLeft_le, ?_⟩
  by_cases hp : s.PHASE = .IDLE
  · rw [stepsLeft_of_idle hp]
    exact ⟨s, completesIn_zero hp, fun hbusy => absurd hp hbusy⟩
  · obtain ⟨u, hu, n, hdone⟩ := InProgress.completes ⟨hinv, hp⟩
    exact ⟨u, hu, fun _ => ⟨hdone.RESP_VALID, hdone.RESP_STATUS⟩⟩

/-- Settles O9: bytes without a whole frame only take the host's turn, and the three forms have no whole frame. -/
theorem unfinishedFrameNeverIssues : Obligations.UnfinishedFrameNeverIssues := by
  refine ⟨fun s bytes later hp hdecode hturn => ?_, decode_of_noWholeFrame nofun,
    fun op => decode_of_noWholeFrame nofun, fun op len more hshort => decode_of_noWholeFrame ?_⟩
  · rw [step_of_issue_idle hturn hp]
    exact (issueBytes_next hp).2 (.inr (.inr ⟨hdecode, rfl⟩))
  · rintro _ _ _ ⟨⟩
    exact hshort

/-- Settles O14: the step is the reset of the engine, which the agents' lists are no part of. -/
theorem resetAbandonsCommand : Obligations.ResetAbandonsCommand :=
  fun _ _ hturn => ⟨_, step_of_reset hturn, rfl, rfl, rfl, rfl, rfl⟩

/-- Settles O15: the four tables after reset are empty. -/
theorem resetStateControlBits : Obligations.ResetStateControlBits :=
  ⟨rfl, rfl, rfl, fun _ => readAt_nil (sp := .S), fun _ => readAt_nil (sp := .L),
    fun _ => readAt_nil (sp := .KEYBUF), fun _ => readAt_nil (sp := .DOUT)⟩
end

section
/-! PROOFS. The opcode table's word placed where the next step takes it (30_encoding.md R70; log entries 6, 14 and
17), and the canonical form of the tables (log entry 2). -/

namespace Sys2Proof.Machine

/-- A table word spells one whole frame: its payload has as many bytes as its LEN byte says. -/
theorem tableFrame_eq_frameBytes (nbits w : Nat) :
    ∃ op pay, pay.length ≤ 255 ∧ tableFrame nbits w = frameBytes op pay := by
  have hmax : w % 2 ^ nbits % 2 ^ 8 < 2 ^ 8 := Nat.mod_lt _ (by decide)
  refine ⟨BitVec.ofNat 8 (w % 2 ^ nbits / 2 ^ 8), (List.range (w % 2 ^ nbits % 2 ^ 8)).map fun k =>
    BitVec.ofNat 8 (w % 2 ^ nbits / 2 ^ (16 + 8 * k)), ?_, ?_⟩
  · rw [List.length_map, List.length_range]
    omega
  · have hlen : BitVec.ofNat 8 (w % 2 ^ nbits % 2 ^ 8) = BitVec.ofNat 8 (w % 2 ^ nbits) :=
      BitVec.eq_of_toNat_eq (by simp only [BitVec.toNat_ofNat, Nat.mod_mod])
    rw [tableFrame, frameBytes, List.length_map, List.length_range, hlen]

/-- The decoder takes the whole of a table word's frame (R77). -/
theorem decode_tableFrame (nbits w : Nat) :
    ∃ op pay, tableFrame nbits w = frameBytes op pay ∧ decode (tableFrame nbits w) = decodeFrame op pay [] := by
  obtain ⟨op, pay, hfits, hframe⟩ := tableFrame_eq_frameBytes nbits w
  have hdecode := decode_frameBytes (op := op) [] hfits
  rw [List.append_nil, ← hframe] at hdecode
  exact ⟨op, pay, hframe, hdecode⟩

/-- A command read from a table word is well-formed, and the word spells its frame. -/
theorem tableFrame_of_decodeTableWord {nbits w : Nat} {i : Instr} (h : decodeTableWord nbits w = some i) :
    i.wf = true ∧ tableFrame nbits w = encode i := by
  obtain ⟨op, pay, hframe, hdecode⟩ := decode_tableFrame nbits w
  rcases decodeFrame_cases op pay [] with ⟨j, rfl, rfl, hcommand⟩ | ⟨-, hreserved⟩
  · rw [hcommand] at hdecode
    obtain rfl : j = i := by simpa only [decodeTableWord, hdecode, Option.some.injEq] using h
    exact ⟨decode_wf hdecode, hframe⟩
  · rw [hreserved] at hdecode
    simp only [decodeTableWord, hdecode, reduceCtorEq] at h

@[simp] theorem withFetchWord_PHASE (s : State) (nbits w : Nat) : (s.withFetchWord nbits w).PHASE = .IDLE := rfl

@[simp] theorem withFetchWord_schedule (s : State) (nbits w : Nat) :
    (s.withFetchWord nbits w).schedule = .issue (tableFrame nbits w) :: s.schedule := rfl

end Sys2Proof.Machine

open Sys2Proof Sys2Proof.Machine

/-- Settles O5: the placed word is the frame of the command it spells, the next turn of an idle engine. -/
theorem placedWordRuns : Obligations.PlacedWordRuns := by
  intro s nbits w i h
  obtain ⟨hw, hframe⟩ := tableFrame_of_decodeTableWord h
  have hturn : (s.withFetchWord nbits w).schedule = .issue (encode i) :: s.schedule := by
    rw [withFetchWord_schedule, hframe]
  exact ⟨hw, stepRunsDecodedCommand _ i s.schedule hw (withFetchWord_PHASE s nbits w) hturn⟩

/-- Settles O49: every write to a table is in range, and reset leaves the tables empty. -/
theorem stepKeepsTablesCanonical : Obligations.StepKeepsTablesCanonical :=
  fun _ _ hc hstep => canonical_kept.step hc hstep
end
